-- ==== Sys2Proof/Word.lean ====
section
/-! DEFINITION. The word types of the block. The addressable unit is the 8-bit byte (20_memory.md R61);
the clock, the priority mask and the command word are 32 bits wide (00_scope.md R10, 30_encoding.md R90). -/

namespace Sys2Proof

/-- The addressable unit of every storage space (R61). -/
abbrev Byte := BitVec 8

/-- A 16-bit quantity: `index`, `declared_length`, a command identifier, a CRC-16. -/
abbrev Half := BitVec 16

/-- A `CLK_W` = `MASK_W` = 32-bit quantity: a timestamp, the priority mask, a command word. -/
abbrev Word := BitVec 32

/-- A priority index, 0 to 31: a bit number of `prio_mask` (R11, R22). -/
abbrev Prio := Fin 32

end Sys2Proof
end

