-- ==== Sys2Proof/Config.lean ====
section
/-! DEFINITION. The configuration of the block (00_scope.md R10 to R13), its well-formedness (70_reset_and_hazards.md
R313), the reference configuration REFCFG (R9 to R13, 95_test_vectors.md), and the free values: constants without a
body, of which nothing can be proved. Every parameter the spec leaves OPEN is a field here, and statements hold for
every value of it. -/

namespace Sys2Proof

/-- `KIND(l)` (R11). -/
inductive Kind where
  | fixedA
  | fixedB
  | stream
  deriving DecidableEq, Repr

/-- The number of a kind (30_encoding.md R123). -/
def Kind.code : Kind → Nat
  | .fixedA => 0
  | .fixedB => 1
  | .stream => 2

/-- A radio link is a link of kind FIXED_A or FIXED_B (R19). -/
def Kind.isRadio : Kind → Bool
  | .fixedA | .fixedB => true
  | .stream => false

/-- The per-link parameters of R11 that the kind does not fix. `FRAME_LEN(l)` and `POP_N(l)` follow from the kind
(R313 (b), (c)) and are functions of it. -/
structure LinkCfg where
  kind        : Kind
  prio        : Option Prio
  fifoCap     : Nat
  liveTimeout : Nat
  popTimeout  : Nat
  deriving DecidableEq, Repr

/-- One sized command identifier: `REC_SIZE(c)` and `ALLOW(c)` (R12). An identifier without an entry has no size and is
not allowed, so that R313 (g), `ALLOW(c)` implies a size, holds of every configuration (log 11). -/
structure CmdCfg where
  id    : Half
  size  : Nat
  allow : Bool
  deriving DecidableEq, Repr

/-- Which checksum functions the configuration names (R10, 43_fixed_frame.md R201; log 4). -/
inductive CrcChoice where
  /-- An arbitrary pair of pure functions, the `k`-th: free values, of which nothing is known. -/
  | oracle (k : Nat)
  /-- The functions of 93_implementation_defined.md G1 (general knowledge), a test fixture. -/
  | fixtureG1
  deriving DecidableEq, Repr

/-- The configuration record: plain data, constant between RESETs (20_memory.md R77). -/
structure Config where
  links        : List LinkCfg
  cmds         : List CmdCfg
  nCmd         : Nat
  chMin        : Nat
  chMax        : Nat
  chHalf       : Nat
  magic0       : Byte
  magic1       : Byte
  bLen         : Nat
  nFn          : Nat
  tDebounceBtn : Nat
  tDebounceSw  : Nat
  tHold        : Nat
  tRepeat      : Nat
  posName      : List String
  crc          : CrcChoice
  deriving DecidableEq, Repr

/-- The record `x` that EXTRACT_A and EXTRACT_B yield (43_fixed_frame.md R208, R209). Protocol B has no wheel (the
field is then read by nothing, R210) and uses `sw0` for the gear. `fn` holds `F[63:46]`, of which bit `k` is function
button `k`. -/
structure Fields where
  ch0    : BitVec 11
  ch1    : BitVec 11
  ch2    : BitVec 11
  ch3    : BitVec 11
  sw0    : BitVec 2
  sw1    : BitVec 2
  mouseX : Half
  mouseY : Half
  mouseZ : Half
  mbtn0  : Byte
  mbtn1  : Byte
  keys   : Half
  wheel  : BitVec 11
  fn     : BitVec 18
  deriving DecidableEq, Repr, Inhabited

namespace Config

/-- The row of identifier `c` in the table of R12, the first one that names it (log 11). -/
def row (cfg : Config) (c : Half) : Option CmdCfg := cfg.cmds.find? fun m => m.id == c

/-! ### Constants the spec fixes -/

/-- `SOF`, the start-of-frame sentinel (R12). -/
def sof : Byte := 0xA5#8

/-- `MAX_FRAME`, the capacity of the scratch buffer (R12). -/
def maxFrame : Nat := 256

/-- `HDR_LEN + CMD_LEN + TAIL_LEN` (R12, 42_stream_sync.md R174). -/
def overhead : Nat := 9

/-- `L_MAX`, the largest accepted declared length (R12): 247. -/
def lMax : Nat := maxFrame - overhead

/-- Bytes of a protocol A frame (R11). -/
def frameLenA : Nat := 18

/-- The `B_LEN` for which 30_encoding.md R102 gives the layout. -/
def layoutLenB : Nat := 22

/-- `CH_MID` (R13). -/
def chMid : Nat := 1024

/-- `SW_RESET_CODE` (R13). -/
def swResetCode : BitVec 2 := 0#2

/-! ### Free values: constants without a body (log 4, 5, 6) -/

/-- The `crc8` of the `k`-th pair of checksum functions: any function of the bytes (R201). -/
opaque freeCrc8 : Nat → List Byte → Byte

/-- The `crc16` of the `k`-th pair of checksum functions: any function of the bytes (R201). -/
opaque freeCrc16 : Nat → List Byte → Half

/-- What the byte at an offset of a receive buffer holds after a burst longer than the buffer (R29, U8): the number of the
burst among such bursts, and the offset. -/
opaque freeOverrun : Nat → Nat → Byte

/-- What EXTRACT_B yields from a frame when `B_LEN` is not 22: the spec gives no layout then (R209, D18). -/
opaque freeLayoutB : Nat → List Byte → Fields

/-! ### Well-formedness (R313) -/

/-- R313 (a), (b), (d) for one link: a stream link has no priority, one largest burst fits an empty FIFO, the times are
below `2^31`. -/
def linkWf (bLen : Nat) (c : LinkCfg) : Bool :=
  (match c.kind with
    | .fixedA => decide (frameLenA ≤ c.fifoCap)
    | .fixedB => decide (bLen ≤ c.fifoCap)
    | .stream => decide (maxFrame ≤ c.fifoCap) && decide (c.prio = none))
  && decide (c.liveTimeout < 2 ^ 31) && decide (c.popTimeout < 2 ^ 31)

/-- R313 (a): no two links share a priority index. -/
def priosDistinct : List LinkCfg → Bool
  | [] => true
  | c :: cs => (c.prio == none || cs.all (fun d => d.prio != c.prio)) && priosDistinct cs

/-- R313 (g) for the row of one identifier: `REC_SIZE(c)` is at least 1 where `c < N_CMD` and `ALLOW(c)`; a row that is not
allowed, or whose identifier is not below `N_CMD`, may have any size. -/
def sizeWf (nCmd : Nat) : Option CmdCfg → Bool
  | some m => decide (m.id.toNat < nCmd ∧ m.allow = true → 1 ≤ m.size)
  | none => true

/-- R313, whole, with the bound on `B_LEN` of 92_eei_decisions.md D18. A link number is 8 bits of a command word, so
no more than 256 links can be addressed; R313 does not bound `N_LINKS`. -/
def wf (cfg : Config) : Bool :=
  decide (1 ≤ cfg.links.length) && cfg.links.all (linkWf cfg.bLen) && priosDistinct cfg.links
  && decide (18 ≤ cfg.bLen) && decide (cfg.bLen ≤ 27)
  && decide (cfg.tDebounceSw < 2 ^ 31) && decide (cfg.tDebounceBtn < 2 ^ 31)
  && decide (cfg.tHold < 2 ^ 31) && decide (cfg.tRepeat < 2 ^ 31)
  && decide (cfg.chMin ≤ cfg.chMax) && decide (cfg.chMax ≤ 2047) && decide (1 ≤ cfg.chHalf)
  && decide (cfg.nFn ≤ 18)
  && cfg.cmds.all (fun m => sizeWf cfg.nCmd (cfg.row m.id)) && decide (cfg.nCmd ≤ 65536)

/-! ### The reference configuration -/

/-- REFCFG (00_scope.md R10 to R13 and the identifier table of 95_test_vectors.md): DESIGN CHOICE and PRESUMED, a test
fixture without authority (log 3, log 4). `POS_NAME` has no value there and is left empty. -/
def refcfg : Config where
  links :=
    [{ kind := .fixedB, prio := some 0, fifoCap := 88, liveTimeout := 100, popTimeout := 100 },
     { kind := .fixedA, prio := some 1, fifoCap := 72, liveTimeout := 100, popTimeout := 100 },
     { kind := .stream, prio := none, fifoCap := 1024, liveTimeout := 100, popTimeout := 100 }]
  cmds :=
    [{ id := 0x0001#16, size := 11, allow := true },
     { id := 0x0002#16, size := 1, allow := true },
     { id := 0x0003#16, size := 32, allow := false },
     { id := 0x0201#16, size := 13, allow := true }]
  nCmd := 0x0400
  chMin := 364
  chMax := 1684
  chHalf := 660
  magic0 := 0xA9#8
  magic1 := 0x53#8
  bLen := 22
  nFn := 4
  tDebounceBtn := 20
  tDebounceSw := 0
  tHold := 500
  tRepeat := 300
  posName := []
  crc := .fixtureG1

end Config
end Sys2Proof
end

