-- ==== Sys2Proof/Syntax.lean ====
section
/-! DEFINITION. The operations of the block: one constructor for each row of spec/opcode_table.json
(30_encoding.md R92). A link number is the 8-bit field `cmd[23:16]` (R91); a byte list is the data of format CN. -/

namespace Sys2Proof

/-- The 24 operations of R92 with their operands. -/
inductive Instr where
  /-- `RESET` (70_reset_and_hazards.md R310). -/
  | reset
  /-- `PUSH l, bytes` (40_byte_channel.md R131). -/
  | push (l : Byte) (bytes : List Byte)
  /-- `POP l` (R132). -/
  | pop (l : Byte)
  /-- `POP_TIMEOUT l` (R133). -/
  | popTimeout (l : Byte)
  /-- `RX l, burst` (R136). -/
  | rx (l : Byte) (burst : List Byte)
  /-- `ADMIT p` (41_arbiter_liveness.md R151); `none` is the operand 0xFF. -/
  | admitPrio (p : Option Prio)
  /-- `MARK_ALIVE l` (R152). -/
  | markAlive (l : Byte)
  /-- `LIVE_CHECK l` (R153). -/
  | liveCheck (l : Byte)
  /-- `MARK_TIMEOUT l` (R154). -/
  | markTimeout (l : Byte)
  /-- `ACTIVE_SRC` (R156). -/
  | activeSrc
  /-- `SYNC_BYTE l, b` (42_stream_sync.md R170). -/
  | syncByte (l : Byte) (b : Byte)
  /-- `VALIDATE_A l, frame` (43_fixed_frame.md R203). -/
  | validateA (l : Byte) (frame : List Byte)
  /-- `VALIDATE_B l, frame` (R204). -/
  | validateB (l : Byte) (frame : List Byte)
  /-- `CRC8_VERIFY bytes` (R202). -/
  | crc8Verify (bytes : List Byte)
  /-- `CRC16_VERIFY bytes` (R207). -/
  | crc16Verify (bytes : List Byte)
  /-- `CRC8_APPEND bytes` (R212). -/
  | crc8Append (bytes : List Byte)
  /-- `CRC16_APPEND bytes` (R213). -/
  | crc16Append (bytes : List Byte)
  /-- `EVAL_SW l, e, v` (44_debounce.md R231). -/
  | evalSw (l : Byte) (e : Byte) (v : BitVec 2)
  /-- `EVAL_BTN l, e, v` (R233); the level is one bit (30_encoding.md R93). -/
  | evalBtn (l : Byte) (e : Byte) (v : Bool)
  /-- `W_RECV l` (45_link_sequencer.md R261). -/
  | wRecv (l : Byte)
  /-- `W_LIVE l` (R264). -/
  | wLive (l : Byte)
  /-- `READ_CTRL l` (R270). -/
  | readCtrl (l : Byte)
  /-- `READ_REC l, c` (R271). -/
  | readRec (l : Byte) (c : Half)
  /-- `READ_ONLINE l` (R272). -/
  | readOnline (l : Byte)
  deriving DecidableEq, Repr

end Sys2Proof
end

