-- ==== Sys2Proof/Machine/State.lean ====
section
/-! DEFINITION. The state of the block (10_state.md R20 to R44), the environment's side of the transaction interface
(30_encoding.md R90), the reasons a step can stop, and the state after reset (R44). Plain data throughout. -/

namespace Sys2Proof.Machine

/-! ### Byte-addressed spaces -/

/-- A byte-addressed storage space (20_memory.md R60) as a sparse list of cells: addresses strictly rising, and no cell
that holds what an unlisted address reads as. -/
abbrev Mem := List Host.Cell

/-- What an unlisted address reads as: 0, the reset contents of the record store and of the scratch buffer (R44, D14;
for the receive buffer DESIGN CHOICE, log 5, log 12). -/
def Mem.unlisted : Byte := 0#8

/-- Addresses rise strictly from `lo` on, and no cell holds the unlisted value. -/
def Mem.wfFrom (lo : Nat) : Mem → Bool
  | [] => true
  | (a, v) :: rest => decide (lo ≤ a) && decide (v ≠ Mem.unlisted) && Mem.wfFrom (a + 1) rest

/-- The canonical form, so that equal spaces are equal lists. -/
def Mem.wf (m : Mem) : Bool := Mem.wfFrom 0 m

/-! ### Entries and the control store -/

/-- The kind of a logical event (30_encoding.md R122). -/
inductive EventKind where
  | none
  | edge
  | rising
  | falling
  | pressed
  | held
  deriving DecidableEq, Repr

/-- The number of an event kind (R122); 6 and 7 are unreachable. -/
def EventKind.code : EventKind → BitVec 3
  | .none => 0#3
  | .edge => 1#3
  | .rising => 2#3
  | .falling => 3#3
  | .pressed => 4#3
  | .held => 5#3

/-- `ctrl_event` (R38, R122). `src` and `dst` are the fields the spec names `from` and `to`. -/
structure Event where
  kind : EventKind
  src  : BitVec 2
  dst  : BitVec 2
  deriving DecidableEq, Repr

/-- The 7 bits `{kind[2:0], from[1:0], to[1:0]}` (R122). -/
def Event.bits (e : Event) : BitVec 7 := e.kind.code ++ (e.src ++ e.dst)

/-- NONE, all 7 bits 0 (R42). -/
def Event.idle : Event := { kind := .none, src := 0#2, dst := 0#2 }

/-- One entry, "Button/Switch Logical State" (R38). -/
structure Entry where
  rawState    : BitVec 2
  stableState : BitVec 2
  event       : Event
  pressTime   : Word
  releaseTime : Word
  holdTime    : Word
  changeTime  : Word
  repeatCount : BitVec 8
  pending     : Bool
  holdStart   : Word
  deriving DecidableEq, Repr

/-- The reset value of a button entry (R42). -/
def Entry.idle : Entry where
  rawState := 0#2
  stableState := 0#2
  event := Event.idle
  pressTime := 0#32
  releaseTime := 0#32
  holdTime := 0#32
  changeTime := 0#32
  repeatCount := 0#8
  pending := false
  holdStart := 0#32

/-- The reset value of a switch entry: its stable code is SW_RESET_CODE (R42). -/
def Entry.idleSwitch : Entry := { Entry.idle with stableState := Config.swResetCode }

/-- The control store of a radio link (R36). -/
structure Ctrl where
  chOff0   : BitVec 12
  chOff1   : BitVec 12
  chOff2   : BitVec 12
  chOff3   : BitVec 12
  wheelRaw : BitVec 11
  mouseX   : Half
  mouseY   : Half
  mouseZ   : Half
  mbtnRaw0 : Byte
  mbtnRaw1 : Byte
  keyRaw   : Half
  sw       : List Entry
  btn      : List Entry
  deriving DecidableEq, Repr

/-- How many switch entries a link has (R37). -/
def switchCount : Kind → Nat
  | .fixedA => 2
  | .fixedB => 1
  | .stream => 0

/-- How many button entries a link has: 16 keys, 2 button states and, on a FIXED_B link, `N_FN` function buttons (R37). -/
def buttonCount (cfg : Config) : Kind → Nat
  | .fixedA => 18
  | .fixedB => 18 + cfg.nFn
  | .stream => 0

/-- The control store at reset (R44); a stream link has no entries (log 10). -/
def Ctrl.reset (cfg : Config) (kind : Kind) : Ctrl where
  chOff0 := 0#12
  chOff1 := 0#12
  chOff2 := 0#12
  chOff3 := 0#12
  wheelRaw := 0#11
  mouseX := 0#16
  mouseY := 0#16
  mouseZ := 0#16
  mbtnRaw0 := 0#8
  mbtnRaw1 := 0#8
  keyRaw := 0#16
  sw := List.replicate (switchCount kind) Entry.idleSwitch
  btn := List.replicate (buttonCount cfg kind) Entry.idle

/-! ### One link -/

/-- `cur[l].step`, the sequencing register (R30, R41). -/
inductive SyncStep where
  | seekSof
  | lenLow
  | lenHigh
  | seq
  | headerCrc8
  | bodyCrc16
  deriving DecidableEq, Repr

/-- The 3-bit number of a step (30_encoding.md R121); 6 and 7 are unreachable. -/
def SyncStep.code : SyncStep → BitVec 3
  | .seekSof => 0#3
  | .lenLow => 1#3
  | .lenHigh => 2#3
  | .seq => 3#3
  | .headerCrc8 => 4#3
  | .bodyCrc16 => 5#3

/-- `wphase[l]`: the half of its loop the worker takes next (R28, 45_link_sequencer.md R260). -/
inductive Phase where
  | recv
  | live
  deriving DecidableEq, Repr

/-- The per-link state (R20). A link holds the stream part (cursor, `last_seq`, records) and the radio part (`ctrl`);
the part that its kind does not have stays at reset (log 10). -/
structure Link where
  q              : List Byte
  online         : Bool
  lastAlive      : Word
  waitStart      : Word
  wphase         : Phase
  rxbuf          : Mem
  step           : SyncStep
  index          : Half
  declaredLength : Half
  scratch        : Mem
  lastSeq        : Byte
  records        : Mem
  ctrl           : Ctrl
  deriving DecidableEq, Repr

/-- A link at reset (R44). -/
def Link.reset (cfg : Config) (c : LinkCfg) : Link where
  q := []
  online := false
  lastAlive := 0#32
  waitStart := 0#32
  wphase := .recv
  rxbuf := []
  step := .seekSof
  index := 0#16
  declaredLength := 0#16
  scratch := []
  lastSeq := 0#8
  records := []
  ctrl := Ctrl.reset cfg c.kind

/-! ### The transaction interface (R90) -/

/-- The status of a response (60_exceptions.md R281). -/
inductive Status where
  | ok
  | notReady
  | timedOut
  | dropCheap
  | dropArb
  | dropFull
  | syncDiscard
  | resyncLen
  | resyncCrc8
  | resyncCrc16
  | frameUnsub
  | frameOk
  | badCrc16
  | badRange
  | badLen
  | liveLost
  | illegalOp
  deriving DecidableEq, Repr

/-- The 8-bit code of a status (R281). -/
def Status.code : Status → Byte
  | .ok => 0x00#8
  | .notReady => 0x01#8
  | .timedOut => 0x02#8
  | .dropCheap => 0x10#8
  | .dropArb => 0x11#8
  | .dropFull => 0x12#8
  | .syncDiscard => 0x20#8
  | .resyncLen => 0x21#8
  | .resyncCrc8 => 0x22#8
  | .resyncCrc16 => 0x23#8
  | .frameUnsub => 0x24#8
  | .frameOk => 0x25#8
  | .badCrc16 => 0x30#8
  | .badRange => 0x31#8
  | .badLen => 0x32#8
  | .liveLost => 0x40#8
  | .illegalOp => 0xFF#8

/-- The result of a response: nothing, one bit, a byte list, the priority index of the winning source or none, or the
snapshot of a control store (R90, "a byte list or record as the operation's rule says"; log 18). -/
inductive Result where
  | none
  | bit (b : Bool)
  | bytes (v : List Byte)
  | source (p : Option Prio)
  | ctrl (c : Ctrl)
  deriving DecidableEq, Repr

/-- A response `(status, result)` (R90). -/
structure Response where
  status : Status
  result : Result
  deriving DecidableEq, Repr

/-- A request `(cmd, data, now)` (R90). -/
structure Request where
  word : Word
  data : List Byte
  now  : Word
  deriving DecidableEq, Repr

/-- The machine. `prioMask` and `links` are the block's state (R20). `cfg` is the latched configuration, a parameter of
the step relation (R9, R77). `cfgIn`, `requests`, `now` and `resp` are the environment's side of the interface: the
configuration it presents, the requests not yet taken, the clock sample of the transaction and the last response (log 1,
log 2). `draws` counts the free values taken so far (log 5). -/
structure State where
  prioMask : Word
  links    : List Link
  cfg      : Config
  cfgIn    : Config
  requests : List Request
  now      : Word
  resp     : Response
  draws    : Nat
  deriving DecidableEq, Repr

/-- Why the machine stops with a fault. The spec has no trap (R280); see log 7. -/
inductive Fault where
  /-- SYNC_BYTE or W_RECV would store at an offset of `SCR(l)` that does not exist (R60, R69). Raised only in states no
  run reaches (`index` at or above 256). Safe. -/
  | scratchOutOfSpace
  deriving DecidableEq, Repr

/-- Why an instruction has no meaning. -/
inductive Refusal where
  /-- An instruction of the table that the model does not give a meaning yet. No arm answers it. Safe. -/
  | notModelled (mnemonic : String)
  deriving DecidableEq, Repr

/-- The block right after the reset that latched `cfg`, with the environment's side as given (R310, R311, R44). -/
def State.resetWith (cfg cfgIn : Config) (requests : List Request) (now : Word) (resp : Response) (draws : Nat) :
    State where
  prioMask := 0#32
  links := cfg.links.map (Link.reset cfg)
  cfg := cfg
  cfgIn := cfgIn
  requests := requests
  now := now
  resp := resp
  draws := draws

/-- The machine after reset: the table of R44 under REFCFG, no request waiting (log 3, log 13). -/
def State.reset : State :=
  State.resetWith Config.refcfg Config.refcfg [] 0#32 { status := .ok, result := .none } 0

end Sys2Proof.Machine
end

