-- ==== Sys2Proof/Machine/Operands.lean ====
section
/-! DEFINITION. What a meaning reads from its operands and from the configuration: the derived per-link parameters (R11),
the identifier table (R12), legality under the configuration (30_encoding.md R93), byte and bit assembly (00_scope.md R15,
30_encoding.md R106) and the field extraction of the two radio frames (43_fixed_frame.md R208, R209). -/

namespace Sys2Proof.Machine

/-! ### Derived parameters -/

/-- `FRAME_LEN(l)` of a radio link and the receive buffer's capacity of any link (R11, R29). -/
def bufferSize (cfg : Config) : Kind → Nat
  | .fixedA => Config.frameLenA
  | .fixedB => cfg.bLen
  | .stream => Config.maxFrame

/-- `POP_N(l)`: one frame on a radio link, one byte on a stream link (R11, R313 (c)). -/
def popCount (cfg : Config) : Kind → Nat
  | .fixedA => Config.frameLenA
  | .fixedB => cfg.bLen
  | .stream => 1

/-- The table row of identifier `c`, if `c < N_CMD` and `REC_SIZE(c)` is defined (R12). -/
def sizedCmd (cfg : Config) (c : Half) : Option CmdCfg :=
  if c.toNat < cfg.nCmd then cfg.row c else none

/-- `REC_SIZE(c)` where the record exists: `c < N_CMD` and sized (10_state.md R35). -/
def recordSize (cfg : Config) (c : Half) : Option Nat := (sizedCmd cfg c).map (·.size)

/-- `REC_SIZE(c)` of an identifier that dispatch writes: `c < N_CMD and ALLOW(c)` (42_stream_sync.md R178). -/
def enabledSize (cfg : Config) (c : Half) : Option Nat :=
  match sizedCmd cfg c with
  | some m => if m.allow then some m.size else none
  | none => none

/-! ### Legality under the configuration (R93) -/

/-- The link exists and has the property. -/
def linkIs (cfg : Config) (l : Byte) (p : LinkCfg → Bool) : Bool :=
  match cfg.links[l.toNat]? with
  | some c => p c
  | none => false

/-- The conditions of R93 that depend on the configuration: the link exists, its kind takes the operation, a CE index
names an entry of it (R37), a READ_REC names a record. -/
def legal (cfg : Config) : Instr → Bool
  | .reset => true
  | .push l _ => linkIs cfg l (fun _ => true)
  | .pop l => linkIs cfg l (fun _ => true)
  | .popTimeout l => linkIs cfg l (fun _ => true)
  | .rx l _ => linkIs cfg l (fun _ => true)
  | .admitPrio _ => true
  | .markAlive l => linkIs cfg l (fun _ => true)
  | .liveCheck l => linkIs cfg l (fun _ => true)
  | .markTimeout l => linkIs cfg l (fun _ => true)
  | .activeSrc => true
  | .syncByte l _ => linkIs cfg l (fun c => c.kind == .stream)
  | .validateA l _ => linkIs cfg l (fun c => c.kind == .fixedA)
  | .validateB l _ => linkIs cfg l (fun c => c.kind == .fixedB)
  | .crc8Verify _ => true
  | .crc16Verify _ => true
  | .crc8Append _ => true
  | .crc16Append _ => true
  | .evalSw l e _ => linkIs cfg l (fun c => c.kind.isRadio && decide (e.toNat < switchCount c.kind))
  | .evalBtn l e _ => linkIs cfg l (fun c => c.kind.isRadio && decide (e.toNat < buttonCount cfg c.kind))
  | .wRecv l => linkIs cfg l (fun _ => true)
  | .wLive l => linkIs cfg l (fun _ => true)
  | .readCtrl l => linkIs cfg l (fun c => c.kind.isRadio)
  | .readRec l c => linkIs cfg l (fun k => k.kind == .stream) && (recordSize cfg c).isSome
  | .readOnline l => linkIs cfg l (fun _ => true)

/-! ### Byte and bit assembly -/

/-- `LE16(b0, b1)` (R15). -/
def le16 (b0 b1 : Byte) : Half := b0.zeroExtend 16 ||| (b1.zeroExtend 16 <<< 8)

/-- `LEn(bytes)`, the little-endian integer of a byte list (R15). -/
def leNat : List Byte → Nat
  | [] => 0
  | b :: rest => b.toNat + 256 * leNat rest

/-- `bitsLE(bytes, pos, w)` (R15). -/
def bitsLE (bytes : List Byte) (pos w : Nat) : BitVec w := BitVec.ofNat w (leNat bytes >>> pos)

/-- Byte `i` of a list that is long enough. -/
def byteAt (bytes : List Byte) (i : Nat) : Byte := bytes.getD i 0#8

/-- `LE16` of the bytes at `i` and `i + 1`. -/
def halfAt (bytes : List Byte) (i : Nat) : Half := le16 (byteAt bytes i) (byteAt bytes (i + 1))

/-! ### Field extraction -/

/-- `EXTRACT_A(frame)` (R208, the layout of 30_encoding.md R101). -/
def extractA (frame : List Byte) : Fields where
  ch0 := bitsLE frame 0 11
  ch1 := bitsLE frame 11 11
  ch2 := bitsLE frame 22 11
  ch3 := bitsLE frame 33 11
  sw0 := bitsLE frame 44 2
  sw1 := bitsLE frame 46 2
  mouseX := halfAt frame 6
  mouseY := halfAt frame 8
  mouseZ := halfAt frame 10
  mbtn0 := byteAt frame 12
  mbtn1 := byteAt frame 13
  keys := halfAt frame 14
  wheel := bitsLE frame 128 11
  fn := 0#18

/-- `EXTRACT_B(frame)` for the 22-byte layout (R209, 30_encoding.md R102): `F = LEn(frame[2..9])`. -/
def extractB22 (frame : List Byte) : Fields :=
  let f := (frame.drop 2).take 8
  { ch0 := bitsLE f 0 11
    ch1 := bitsLE f 11 11
    ch2 := bitsLE f 22 11
    ch3 := bitsLE f 33 11
    sw0 := bitsLE f 44 2
    sw1 := 0#2
    mouseX := halfAt frame 10
    mouseY := halfAt frame 12
    mouseZ := halfAt frame 14
    mbtn0 := byteAt frame 16
    mbtn1 := byteAt frame 17
    keys := halfAt frame 18
    wheel := 0#11
    fn := bitsLE f 46 18 }

/-- `EXTRACT_B(frame)`: the layout of R209 where `B_LEN` is 22, a free value for any other length (log 6). -/
def extractB (cfg : Config) (frame : List Byte) : Fields :=
  if cfg.bLen = Config.layoutLenB then extractB22 frame else Config.freeLayoutB cfg.bLen frame

/-- `RANGE_OK(x)`: each of the four channels within the calibrated range, both bounds inclusive (R205). -/
def rangeOk (cfg : Config) (x : Fields) : Bool :=
  [x.ch0, x.ch1, x.ch2, x.ch3].all fun ch => decide (cfg.chMin ≤ ch.toNat) && decide (ch.toNat ≤ cfg.chMax)

/-- `ch_off = channel - CH_MID`, signed, held in 12 bits (30_encoding.md R106, R206). -/
def chOffset (ch : BitVec 11) : BitVec 12 := ch.zeroExtend 12 - BitVec.ofNat 12 Config.chMid

/-- The normalized channel `ch_off / CH_HALF`, an exact rational the reader computes (R206, R43; log 17). -/
def normChannel (cfg : Config) (off : BitVec 12) : Rat := (off.toInt : Rat) / (cfg.chHalf : Rat)

/-- The codes presented to the switch entries of a link, in entry order (R37, R210). -/
def switchCodes (kind : Kind) (x : Fields) : List (BitVec 2) :=
  match kind with
  | .fixedA => [x.sw0, x.sw1]
  | .fixedB => [x.sw0]
  | .stream => []

/-- The levels presented to the button entries of a link, in entry order: 16 keys, the two button states as nonzero
tests, and the function buttons of a FIXED_B link (R37, R106, R210). -/
def buttonLevels (cfg : Config) (kind : Kind) (x : Fields) : List Bool :=
  (List.range 16).map x.keys.getLsbD ++ [x.mbtn0 != 0#8, x.mbtn1 != 0#8]
    ++ (match kind with
        | .fixedA => []
        | .fixedB => (List.range cfg.nFn).map x.fn.getLsbD
        | .stream => [])

end Sys2Proof.Machine
end

