-- ==== Sys2Proof/Machine/Flags.lean ====
section
/-! DEFINITION. The flag computations of the block (10_state.md R40): the bits of `prio_mask`, the admission test, the
winning source, and the comparison of times (00_scope.md R14). -/

namespace Sys2Proof.Machine

/-- `elapsed(t) = (now - t) mod 2^32` (R14). -/
def elapsed (now t : Word) : Nat := (now - t).toNat

/-- Atomic bit set of a link's own bit; a link without priority owns none (41_arbiter_liveness.md R152). -/
def setPrio (mask : Word) : Option Prio → Word
  | none => mask
  | some p => mask ||| (1#32 <<< p.val)

/-- Atomic bit clear of a link's own bit (R154). -/
def clearPrio (mask : Word) : Option Prio → Word
  | none => mask
  | some p => mask &&& ~~~(1#32 <<< p.val)

/-- The admission test: `prio_mask[p-1:0] = 0`, true for a link without priority (R151). -/
def admits (mask : Word) : Option Prio → Bool
  | none => true
  | some p => (mask &&& ((1#32 <<< p.val) - 1#32)) == 0#32

/-- `ACTIVE_SRC`: the least `p` with `prio_mask[p] = 1` (R156). -/
def activeSource (mask : Word) : Option Prio :=
  (List.finRange 32).find? fun p => mask.getLsbD p.val

/-- The link that owns the winning index, "the winning source" (R156). -/
def winningLink (cfg : Config) (mask : Word) : Option Nat :=
  match activeSource mask with
  | none => none
  | some p => cfg.links.findIdx? fun c => c.prio == some p

/-- The event of a switch transition (30_encoding.md R122). -/
def edgeEvent (src dst : BitVec 2) : Event := { kind := .edge, src := src, dst := dst }

/-- RISING, `from` 0 `to` 1 (R122). -/
def risingEvent : Event := { kind := .rising, src := 0#2, dst := 1#2 }

/-- FALLING, `from` 1 `to` 0 (R122). -/
def fallingEvent : Event := { kind := .falling, src := 1#2, dst := 0#2 }

/-- PRESSED (R122). -/
def pressedEvent : Event := { kind := .pressed, src := 0#2, dst := 0#2 }

/-- HELD (R122). -/
def heldEvent : Event := { kind := .held, src := 0#2, dst := 0#2 }

end Sys2Proof.Machine
end

