-- ==== Sys2Proof/Machine/Ops.lean ====
section
/-! DEFINITION. The named operations over spaces, links and the state: reading and writing bytes (00_scope.md R16), the
response, `raise` (R16, 60_exceptions.md R280, R293), access to a link under R93, and the liveness updates that several
meanings share. -/

namespace Sys2Proof.Machine

/-- What a meaning answers. -/
abbrev Out := Host.Outcome State Fault Refusal

/-! ### Bytes of a space -/

/-- One byte. -/
def Mem.read : Mem → Nat → Byte
  | [], _ => Mem.unlisted
  | (b, v) :: rest, a => if b = a then v else Mem.read rest a

/-- Put one byte, keeping the canonical form: storing the unlisted value removes the cell. -/
def Mem.write : Mem → Nat → Byte → Mem
  | [], a, v => if v = Mem.unlisted then [] else [(a, v)]
  | (b, w) :: rest, a, v =>
    if a < b then (if v = Mem.unlisted then (b, w) :: rest else (a, v) :: (b, w) :: rest)
    else if a = b then (if v = Mem.unlisted then rest else (a, v) :: rest)
    else (b, w) :: Mem.write rest a v

/-- `MemRead(space, a, n)`: the `n` bytes from offset `a`, lowest first (R16), where offset `o` lies at `key o`. -/
def Mem.readAt (m : Mem) (key : Nat → Nat) : Nat → Nat → List Byte
  | _, 0 => []
  | a, n + 1 => Mem.read m (key a) :: Mem.readAt m key (a + 1) n

/-- `MemWrite(space, a, n, v)` (R16), where offset `o` lies at `key o`. -/
def Mem.writeAt (m : Mem) (key : Nat → Nat) : Nat → List Byte → Mem
  | _, [] => m
  | a, v :: rest => Mem.writeAt (Mem.write m (key a) v) key (a + 1) rest

/-- Offsets of a space that is a cell list of its own: `SCR(l)`, `RX(l)`. -/
def flatKey (o : Nat) : Nat := o

/-- Where offset `o` of `REC(l,c)` lies in the link's record store: distinct for distinct `(c, o)` (log 11). -/
def recordKey (c : Half) (o : Nat) : Nat := 65536 * o + c.toNat

/-! ### Responses -/

/-- Return a status and a result to the issuer. -/
def State.respond (s : State) (st : Status) (r : Result) : State := { s with resp := { status := st, result := r } }

/-- `raise <Class>`: the operation completes with the status; nothing traps, nothing is saved, no mode changes, nothing
vectors (R16, R280, R293). This stands where a processor takes an exception; there is no return operation (R294). -/
def State.raise (s : State) (st : Status) : Out := .next (s.respond st .none)

/-- Run the body on the link and its parameters where the command is legal; ILLEGAL_OP, and no state change, where it is
not (R93). A state with fewer links than its configuration, which no run reaches, answers ILLEGAL_OP too
(log 19). -/
def onLink (i : Instr) (l : Byte) (s : State) (body : LinkCfg → Link → Out) : Out :=
  if legal s.cfg i then
    match s.cfg.links[l.toNat]?, s.links[l.toNat]? with
    | some c, some k => body c k
    | _, _ => s.raise .illegalOp
  else s.raise .illegalOp

/-- Replace link `l` and the priority mask, and respond. -/
def State.update (s : State) (l : Byte) (k : Link) (mask : Word) (st : Status) (r : Result) : State :=
  { s with links := s.links.set l.toNat k, prioMask := mask, resp := { status := st, result := r } }

/-! ### Liveness (41_arbiter_liveness.md) -/

/-- The link part of MARK_ALIVE (R152). -/
def Link.alive (now : Word) (k : Link) : Link := { k with online := true, lastAlive := now }

/-- The link part of MARK_TIMEOUT (R154). -/
def Link.dead (k : Link) : Link := { k with online := false }

/-- What a decoder leaves: the link, the status, and whether it calls MARK_ALIVE. -/
structure Verdict where
  link   : Link
  status : Status
  alive  : Bool
  deriving DecidableEq, Repr

/-- Commit a decoder's verdict in one step: the store first, then MARK_ALIVE where it is called (R178, R203, R204). -/
def State.settle (s : State) (l : Byte) (c : LinkCfg) (v : Verdict) : State :=
  if v.alive then s.update l (v.link.alive s.now) (setPrio s.prioMask c.prio) v.status .none
  else s.update l v.link s.prioMask v.status .none

/-- LIVE_CHECK's test, strictly greater (R153). -/
def livenessLost (c : LinkCfg) (now : Word) (k : Link) : Bool := decide (c.liveTimeout < elapsed now k.lastAlive)

/-- LIVE_CHECK on link `l`, whose state after it is `k` but for the flag (R153, R154). -/
def State.checkLive (s : State) (l : Byte) (c : LinkCfg) (lost : Bool) (k : Link) : State :=
  if lost then s.update l k.dead (clearPrio s.prioMask c.prio) .liveLost .none
  else s.update l k s.prioMask .ok .none

end Sys2Proof.Machine
end

