-- ==== Sys2Proof/Machine/Arbiter.lean ====
section
/-! DEFINITION. The Priority Arbitrator and the Liveness Tracker (41_arbiter_liveness.md): ADMIT, MARK_ALIVE, LIVE_CHECK,
MARK_TIMEOUT, ACTIVE_SRC. -/

namespace Sys2Proof.Machine

/-- `ADMIT p` (R151): a pure test. -/
def execAdmit (p : Option Prio) (s : State) : Out :=
  .next (s.respond .ok (.bit (admits s.prioMask p)))

/-- `MARK_ALIVE l` (R152). -/
def execMarkAlive (l : Byte) (s : State) : Out :=
  onLink (.markAlive l) l s fun c k =>
    .next (s.update l (k.alive s.now) (setPrio s.prioMask c.prio) .ok .none)

/-- `LIVE_CHECK l` (R153). -/
def execLiveCheck (l : Byte) (s : State) : Out :=
  onLink (.liveCheck l) l s fun c k => .next (s.checkLive l c (livenessLost c s.now k) k)

/-- `MARK_TIMEOUT l` (R154). -/
def execMarkTimeout (l : Byte) (s : State) : Out :=
  onLink (.markTimeout l) l s fun c k =>
    .next (s.update l k.dead (clearPrio s.prioMask c.prio) .ok .none)

/-- `ACTIVE_SRC` (R156): a pure function of `prio_mask`. -/
def execActiveSrc (s : State) : Out :=
  .next (s.respond .ok (.source (activeSource s.prioMask)))

end Sys2Proof.Machine
end

