-- ==== Sys2Proof/Machine/ResetOp.lean ====
section
/-! DEFINITION. RESET (70_reset_and_hazards.md R310). -/

namespace Sys2Proof.Machine

/-- `RESET`: the configuration that the environment presents is latched, every piece of state takes the value of
10_state.md R44, and the response is OK (R310). What the environment holds (requests, clock, the count of free values) is not the block's. -/
def execReset (s : State) : Out :=
  .next (State.resetWith s.cfgIn s.cfgIn s.requests s.now { status := .ok, result := .none } s.draws)

end Sys2Proof.Machine
end

