-- ==== Sys2Proof/Machine/ByteChannel.lean ====
section
/-! DEFINITION. The Byte Channel and the receive interrupt (40_byte_channel.md): PUSH, POP, POP_TIMEOUT, RX. -/

namespace Sys2Proof.Machine

/-- The burst fits: `len(q[l]) + n <= FIFO_CAP(l)` (R131). -/
def fits (c : LinkCfg) (k : Link) (bytes : List Byte) : Bool := decide (k.q.length + bytes.length ≤ c.fifoCap)

/-- Append a whole burst to the tail (R131). -/
def Link.enqueue (k : Link) (bytes : List Byte) : Link := { k with q := k.q ++ bytes }

/-- Enough bytes for one pop: `len(q[l]) >= POP_N(l)` (R132). -/
def popReady (cfg : Config) (c : LinkCfg) (k : Link) : Bool := decide (popCount cfg c.kind ≤ k.q.length)

/-- The bytes one pop returns (R132). -/
def popped (cfg : Config) (c : LinkCfg) (k : Link) : List Byte := k.q.take (popCount cfg c.kind)

/-- The link without them (R132). -/
def Link.dequeue (cfg : Config) (c : LinkCfg) (k : Link) : Link := { k with q := k.q.drop (popCount cfg c.kind) }

/-- The deadline of the blocking pop has passed (R133). -/
def waitExpired (c : LinkCfg) (now : Word) (k : Link) : Bool := decide (c.popTimeout ≤ elapsed now k.waitStart)

/-- `CHEAP(l, burst)` (R135). -/
def cheap (cfg : Config) (kind : Kind) (burst : List Byte) : Bool :=
  match kind with
  | .fixedA => burst.length == Config.frameLenA
  | .fixedB => burst.length == cfg.bLen && byteAt burst 0 == cfg.magic0 && byteAt burst 1 == cfg.magic1
  | .stream => decide (1 ≤ burst.length) && decide (burst.length ≤ Config.maxFrame)

/-- What RX stores in a receive buffer of `size` bytes: the burst from offset 0; a burst the buffer cannot hold leaves
free values there, the `draw`-th of them (R29, R136, U8; log 5). -/
def received (size draw : Nat) (burst : List Byte) : List Byte :=
  if burst.length ≤ size then burst else (List.range size).map (Config.freeOverrun draw)

/-- `rxbuf[l] <- burst` (R136). -/
def Link.receive (size draw : Nat) (burst : List Byte) (k : Link) : Link :=
  { k with rxbuf := k.rxbuf.writeAt flatKey 0 (received size draw burst) }

/-- A burst that the receive buffer cannot hold takes a free value; the next such burst takes another. -/
def State.drawFor (s : State) (size : Nat) (burst : List Byte) : State :=
  { s with draws := if burst.length ≤ size then s.draws else s.draws + 1 }

/-- `PUSH l, bytes` (R131): the whole burst or nothing. -/
def execPush (l : Byte) (bytes : List Byte) (s : State) : Out :=
  onLink (.push l bytes) l s fun c k =>
    if fits c k bytes then .next (s.update l (k.enqueue bytes) s.prioMask .ok .none) else s.raise .dropFull

/-- `POP l` (R132). -/
def execPop (l : Byte) (s : State) : Out :=
  onLink (.pop l) l s fun c k =>
    if popReady s.cfg c k then
      .next (s.update l (k.dequeue s.cfg c) s.prioMask .ok (.bytes (popped s.cfg c k)))
    else s.raise .notReady

/-- `POP_TIMEOUT l` (R133): no state is written. -/
def execPopTimeout (l : Byte) (s : State) : Out :=
  onLink (.popTimeout l) l s fun c k =>
    if !popReady s.cfg c k && waitExpired c s.now k then .next (s.respond .timedOut .none) else s.raise .notReady

/-- `RX l, burst` (R136): cheap checks, then arbitration, then PUSH; the receive buffer is written first. -/
def execRx (l : Byte) (burst : List Byte) (s : State) : Out :=
  onLink (.rx l burst) l s fun c k0 =>
    let k := k0.receive (bufferSize s.cfg c.kind) s.draws burst
    let t := s.drawFor (bufferSize s.cfg c.kind) burst
    if !cheap s.cfg c.kind burst then .next (t.update l k s.prioMask .dropCheap .none)
    else if !admits s.prioMask c.prio then .next (t.update l k s.prioMask .dropArb .none)
    else if fits c k burst then .next (t.update l (k.enqueue burst) s.prioMask .ok .none)
    else .next (t.update l k s.prioMask .dropFull .none)

end Sys2Proof.Machine
end

