-- ==== Sys2Proof/Machine/Crc.lean ====
section
/-! DEFINITION. The CRC checkers (43_fixed_frame.md R201, R202, R207, R212, R213): CRC8_VERIFY, CRC16_VERIFY, CRC8_APPEND,
CRC16_APPEND. The two checksum functions are parameters (R201, log 4). -/

namespace Sys2Proof.Machine

/-- `n` times: shift right, and xor the polynomial if the bit shifted out was 1 (93_implementation_defined.md G1). -/
def crcShift {w : Nat} (poly : BitVec w) : Nat → BitVec w → BitVec w
  | 0, c => c
  | n + 1, c => crcShift poly n (if c.getLsbD 0 then (c >>> 1) ^^^ poly else c >>> 1)

/-- The CRC-8 of G1, a test fixture of the spec (general knowledge, log 4). -/
def crc8G1 (bytes : List Byte) : Byte :=
  bytes.foldl (fun c b => crcShift 0x8C#8 8 (c ^^^ b)) 0xFF#8

/-- The CRC-16 of G1, a test fixture of the spec (general knowledge, log 4). -/
def crc16G1 (bytes : List Byte) : Half :=
  bytes.foldl (fun c b => crcShift 0x8408#16 8 (c ^^^ b.zeroExtend 16)) 0xFFFF#16

/-- The parameter `crc8` (R201). -/
def crc8 (cfg : Config) (bytes : List Byte) : Byte :=
  match cfg.crc with
  | .oracle k => Config.freeCrc8 k bytes
  | .fixtureG1 => crc8G1 bytes

/-- The parameter `crc16` (R201). -/
def crc16 (cfg : Config) (bytes : List Byte) : Half :=
  match cfg.crc with
  | .oracle k => Config.freeCrc16 k bytes
  | .fixtureG1 => crc16G1 bytes

/-- The result of CRC8_VERIFY: the function of all bytes but the last equals the last (R202). -/
def crc8Verified (cfg : Config) (bytes : List Byte) : Bool :=
  decide (1 ≤ bytes.length)
    && crc8 cfg (bytes.take (bytes.length - 1)) == byteAt bytes (bytes.length - 1)

/-- The result of CRC16_VERIFY: the function of all bytes but the last two equals their LE16 (R207). -/
def crc16Verified (cfg : Config) (bytes : List Byte) : Bool :=
  decide (2 ≤ bytes.length)
    && crc16 cfg (bytes.take (bytes.length - 2)) == halfAt bytes (bytes.length - 2)

/-- The result of CRC8_APPEND (R212). -/
def crc8Appended (cfg : Config) (bytes : List Byte) : List Byte := bytes ++ [crc8 cfg bytes]

/-- The result of CRC16_APPEND, low byte first (R213). -/
def crc16Appended (cfg : Config) (bytes : List Byte) : List Byte :=
  let k := crc16 cfg bytes
  bytes ++ [k.extractLsb' 0 8, k.extractLsb' 8 8]

/-- `CRC8_VERIFY bytes` (R202). -/
def execCrc8Verify (bytes : List Byte) (s : State) : Out :=
  .next (s.respond .ok (.bit (crc8Verified s.cfg bytes)))

/-- `CRC16_VERIFY bytes` (R207). -/
def execCrc16Verify (bytes : List Byte) (s : State) : Out :=
  .next (s.respond .ok (.bit (crc16Verified s.cfg bytes)))

/-- `CRC8_APPEND bytes` (R212). -/
def execCrc8Append (bytes : List Byte) (s : State) : Out :=
  .next (s.respond .ok (.bytes (crc8Appended s.cfg bytes)))

/-- `CRC16_APPEND bytes` (R213). -/
def execCrc16Append (bytes : List Byte) (s : State) : Out :=
  .next (s.respond .ok (.bytes (crc16Appended s.cfg bytes)))

end Sys2Proof.Machine
end

