-- ==== Sys2Proof/Machine/Debounce.lean ====
section
/-! DEFINITION. The Debounce / Logical-Event state machine (44_debounce.md): EVAL_SW, EVAL_BTN. -/

namespace Sys2Proof.Machine

/-- The first lines of R231 and R232: a changed raw code is stored and restarts `change_time`. -/
def Entry.present (v : BitVec 2) (now : Word) (e : Entry) : Entry :=
  if v ≠ e.rawState then { e with rawState := v, changeTime := now } else e

/-- The presented code differs from the accepted one and has persisted for `t` ms (R231, R232). -/
def Entry.accepts (t : Nat) (now : Word) (e : Entry) : Bool :=
  decide (e.rawState ≠ e.stableState) && decide (t ≤ elapsed now e.changeTime)

/-- One evaluation of a switch entry (R231). -/
def evalSwitch (cfg : Config) (now : Word) (v : BitVec 2) (e : Entry) : Entry :=
  let s := e.present v now
  if s.accepts cfg.tDebounceSw now then
    { s with event := edgeEvent s.stableState s.rawState, stableState := s.rawState, changeTime := now }
  else { s with event := Event.idle }

/-- A level as a raw code: bit 1 stays 0 (R232). -/
def levelCode (v : Bool) : BitVec 2 := if v then 1#2 else 0#2

/-- Branch 1, window expiry (R236). -/
def Entry.windowExpired (e : Entry) : Entry := { e with pending := false, event := pressedEvent }

/-- `repeat_count` saturates at 255 (R237, R243). -/
def countUp (n : BitVec 8) : BitVec 8 := if n = 255#8 then 255#8 else n + 1#8

/-- Branch 2, rising edge accepted (R237). -/
def Entry.rise (now : Word) (e : Entry) : Entry :=
  { e with
    stableState := 1#2
    repeatCount := if e.pending then countUp e.repeatCount else 1#8
    pending := false
    pressTime := now
    holdTime := 0#32
    event := risingEvent }

/-- Branch 3, falling edge accepted (R238). -/
def Entry.fall (now : Word) (inHold : Bool) (e : Entry) : Entry :=
  { e with stableState := 0#2, releaseTime := now, pending := !inHold, event := fallingEvent }

/-- Branch 4, hold continuing (R239). -/
def Entry.keepHold (now : Word) (e : Entry) : Entry :=
  { e with holdTime := now - e.holdStart, event := heldEvent }

/-- Branch 5, hold entry (R240). -/
def Entry.enterHold (now : Word) (e : Entry) : Entry :=
  { e with holdStart := now, holdTime := 0#32, event := heldEvent }

/-- The six branches, the first whose condition holds (R233, R235); branch 6 is R241. -/
def Entry.classify (cfg : Config) (now : Word) (inHold : Bool) (e : Entry) : Entry :=
  let accept := e.accepts cfg.tDebounceBtn now
  if e.pending && decide (cfg.tRepeat ≤ elapsed now e.releaseTime) then e.windowExpired
  else if accept && e.rawState == 1#2 then e.rise now
  else if accept && e.rawState == 0#2 then e.fall now inHold
  else if e.stableState == 1#2 && inHold then e.keepHold now
  else if e.stableState == 1#2 && decide (cfg.tHold ≤ elapsed now e.pressTime) then e.enterHold now
  else { e with event := Event.idle }

/-- One evaluation of a button entry: the filter of R232, `in_hold` latched from before the evaluation, one branch
(R233). -/
def evalButton (cfg : Config) (now : Word) (v : Bool) (e : Entry) : Entry :=
  (e.present (levelCode v) now).classify cfg now (decide (e.event.kind = .held))

/-- Evaluate entries in order against the operands presented to them; an entry without operand is left as it is. -/
def evalEach {α : Type} (f : α → Entry → Entry) : List α → List Entry → List Entry
  | a :: as, e :: es => f a e :: evalEach f as es
  | _, es => es

/-- Replace the switch entries of a link. -/
def Link.withSw (k : Link) (sw : List Entry) : Link := { k with ctrl := { k.ctrl with sw := sw } }

/-- Replace the button entries of a link. -/
def Link.withBtn (k : Link) (btn : List Entry) : Link := { k with ctrl := { k.ctrl with btn := btn } }

/-- `EVAL_SW l, e, v` (R231). An index that R37 names but the state does not hold, which no run reaches, answers
ILLEGAL_OP (log 19). -/
def execEvalSw (l : Byte) (e : Byte) (v : BitVec 2) (s : State) : Out :=
  onLink (.evalSw l e v) l s fun _ k =>
    match k.ctrl.sw[e.toNat]? with
    | some x =>
      .next (s.update l (k.withSw (k.ctrl.sw.set e.toNat (evalSwitch s.cfg s.now v x))) s.prioMask .ok .none)
    | none => s.raise .illegalOp

/-- `EVAL_BTN l, e, v` (R233). An index that R37 names but the state does not hold, which no run reaches, answers
ILLEGAL_OP (log 19). -/
def execEvalBtn (l : Byte) (e : Byte) (v : Bool) (s : State) : Out :=
  onLink (.evalBtn l e v) l s fun _ k =>
    match k.ctrl.btn[e.toNat]? with
    | some x =>
      .next (s.update l (k.withBtn (k.ctrl.btn.set e.toNat (evalButton s.cfg s.now v x))) s.prioMask .ok .none)
    | none => s.raise .illegalOp

end Sys2Proof.Machine
end

