-- ==== Sys2Proof/Machine/FixedFrame.lean ====
section
/-! DEFINITION. The Fixed-Frame Validator/Unpacker (43_fixed_frame.md): VALIDATE_A, VALIDATE_B. -/

namespace Sys2Proof.Machine

/-- The scalar part of `COMMIT(l, x)` (R210): the wheel is written on a FIXED_A link only. -/
def Ctrl.load (kind : Kind) (x : Fields) (c : Ctrl) : Ctrl :=
  { c with
    chOff0 := chOffset x.ch0
    chOff1 := chOffset x.ch1
    chOff2 := chOffset x.ch2
    chOff3 := chOffset x.ch3
    wheelRaw := if kind = .fixedA then x.wheel else c.wheelRaw
    mouseX := x.mouseX
    mouseY := x.mouseY
    mouseZ := x.mouseZ
    mbtnRaw0 := x.mbtn0
    mbtnRaw1 := x.mbtn1
    keyRaw := x.keys }

/-- `COMMIT(l, x)` (R210): the scalar fields, and every entry evaluated once with the same `now`. -/
def Ctrl.commit (cfg : Config) (kind : Kind) (now : Word) (x : Fields) (c : Ctrl) : Ctrl :=
  { c.load kind x with
    sw := evalEach (evalSwitch cfg now) (switchCodes kind x) c.sw
    btn := evalEach (evalButton cfg now) (buttonLevels cfg kind x) c.btn }

/-- The link after a commit, which calls MARK_ALIVE. -/
def committed (cfg : Config) (kind : Kind) (now : Word) (x : Fields) (k : Link) : Verdict :=
  { link := { k with ctrl := k.ctrl.commit cfg kind now x }, status := .ok, alive := true }

/-- A frame discarded whole: nothing changes (R211). -/
def discarded (k : Link) (st : Status) : Verdict := { link := k, status := st, alive := false }

/-- The checks of VALIDATE_A in their order (R203, 60_exceptions.md R291). -/
def validateA (cfg : Config) (now : Word) (frame : List Byte) (k : Link) : Verdict :=
  if frame.length ≠ Config.frameLenA then discarded k .badLen
  else if !rangeOk cfg (extractA frame) then discarded k .badRange
  else committed cfg .fixedA now (extractA frame) k

/-- The checks of VALIDATE_B in their order (R204, R291); the magic is not examined. -/
def validateB (cfg : Config) (now : Word) (frame : List Byte) (k : Link) : Verdict :=
  if frame.length ≠ cfg.bLen then discarded k .badLen
  else if !crc16Verified cfg frame then discarded k .badCrc16
  else if !rangeOk cfg (extractB cfg frame) then discarded k .badRange
  else committed cfg .fixedB now (extractB cfg frame) k

/-- `VALIDATE_A l, frame` (R203). -/
def execValidateA (l : Byte) (frame : List Byte) (s : State) : Out :=
  onLink (.validateA l frame) l s fun c k => .next (s.settle l c (validateA s.cfg s.now frame k))

/-- `VALIDATE_B l, frame` (R204). -/
def execValidateB (l : Byte) (frame : List Byte) (s : State) : Out :=
  onLink (.validateB l frame) l s fun c k => .next (s.settle l c (validateB s.cfg s.now frame k))

end Sys2Proof.Machine
end

