-- ==== Sys2Proof/Machine/StreamSync.lean ====
section
/-! DEFINITION. The Streaming Frame Synchronizer (42_stream_sync.md): SYNC_BYTE. -/

namespace Sys2Proof.Machine

/-- `ACCUM(b)` (R171); `none` where offset `index` of `SCR(l)` does not exist (R60; log 7). -/
def Link.accum (b : Byte) (k : Link) : Option Link :=
  if k.index.toNat < Config.maxFrame then
    some { k with scratch := k.scratch.write (flatKey k.index.toNat) b, index := k.index + 1#16 }
  else none

/-- `CURSOR_RESET` (R171): `scratch` is left as it is. -/
def Link.cursorReset (k : Link) : Link := { k with step := .seekSof, index := 0#16, declaredLength := 0#16 }

/-- `MemRead(SCR(l), a, n)`. -/
def Link.scratchBytes (k : Link) (a n : Nat) : List Byte := k.scratch.readAt flatKey a n

/-- The command identifier of the frame in `scratch` (30_encoding.md R106). -/
def Link.cmdId (k : Link) : Half := le16 (k.scratch.read (flatKey 5)) (k.scratch.read (flatKey 6))

/-- Frame still in progress, or ended without a dispatch. -/
def quiet (k : Link) (st : Status) : Verdict := { link := k, status := st, alive := false }

/-- `DISPATCH(l)` (R178): the bounded copy into the record of an enabled identifier, and liveness in both cases. -/
def dispatch (cfg : Config) (k : Link) : Verdict :=
  let seen := { k with lastSeq := k.scratch.read (flatKey 3) }
  match enabledSize cfg k.cmdId with
  | some size =>
    let n := min k.declaredLength.toNat size
    { link := { seen with records := k.records.writeAt (recordKey k.cmdId) 0 (k.scratchBytes 7 n) }
      status := .frameOk, alive := true }
  | none => { link := seen, status := .frameUnsub, alive := true }

/-- State SEEK_SOF (R172). -/
def syncSeek (b : Byte) (k : Link) : Option Verdict :=
  if b = Config.sof then
    match k.accum b with
    | some k' => some (quiet { k' with step := .lenLow } .ok)
    | none => none
  else some (quiet k .syncDiscard)

/-- State LEN_LOW (R173). -/
def syncLenLow (b : Byte) (k : Link) : Option Verdict :=
  match k.accum b with
  | some k' => some (quiet { k' with declaredLength := b.zeroExtend 16, step := .lenHigh } .ok)
  | none => none

/-- State LEN_HIGH: the length check (R174). -/
def syncLenHigh (b : Byte) (k : Link) : Option Verdict :=
  match k.accum b with
  | some k' =>
    let len := k'.declaredLength ||| (b.zeroExtend 16 <<< 8)
    if Config.maxFrame < len.toNat + Config.overhead then
      some (quiet ({ k' with declaredLength := len }).cursorReset .resyncLen)
    else some (quiet { k' with declaredLength := len, step := .seq } .ok)
  | none => none

/-- State SEQ (R175). -/
def syncSeq (b : Byte) (k : Link) : Option Verdict :=
  match k.accum b with
  | some k' => some (quiet { k' with step := .headerCrc8 } .ok)
  | none => none

/-- State HEADER_CRC8 (R176). -/
def syncHeader (cfg : Config) (b : Byte) (k : Link) : Option Verdict :=
  match k.accum b with
  | some k' =>
    if crc8 cfg (k'.scratchBytes 0 4) = b then some (quiet { k' with step := .bodyCrc16 } .ok)
    else some (quiet k'.cursorReset .resyncCrc8)
  | none => none

/-- State BODY_CRC16 (R177). -/
def syncBody (cfg : Config) (b : Byte) (k : Link) : Option Verdict :=
  match k.accum b with
  | some k' =>
    let i := k'.index.toNat
    if i < k'.declaredLength.toNat + Config.overhead then some (quiet k' .ok)
    else
      let rx16 := le16 (k'.scratch.read (flatKey (i - 2))) (k'.scratch.read (flatKey (i - 1)))
      if crc16 cfg (k'.scratchBytes 0 (i - 2)) = rx16 then
        let v := dispatch cfg k'
        some { v with link := v.link.cursorReset }
      else some (quiet k'.cursorReset .resyncCrc16)
  | none => none

/-- The synchronizer's step: one rule a value of `step` (R170). `none` where a byte would be stored outside `SCR(l)`. -/
def sync (cfg : Config) (b : Byte) (k : Link) : Option Verdict :=
  match k.step with
  | .seekSof => syncSeek b k
  | .lenLow => syncLenLow b k
  | .lenHigh => syncLenHigh b k
  | .seq => syncSeq b k
  | .headerCrc8 => syncHeader cfg b k
  | .bodyCrc16 => syncBody cfg b k

/-- Commit what the synchronizer answers on link `l` (R170); the fault is log 7. -/
def State.settleSync (s : State) (l : Byte) (c : LinkCfg) (v : Option Verdict) : Out :=
  match v with
  | some v => .next (s.settle l c v)
  | none => .fault .scratchOutOfSpace

/-- `SYNC_BYTE l, b` (R170). -/
def execSyncByte (l : Byte) (b : Byte) (s : State) : Out :=
  onLink (.syncByte l b) l s fun c k => s.settleSync l c (sync s.cfg b k)

end Sys2Proof.Machine
end

