-- ==== Sys2Proof/Machine/Sequencer.lean ====
section
/-! DEFINITION. The per-link worker sequence and the consumer reads (45_link_sequencer.md): W_RECV, W_LIVE, READ_CTRL,
READ_REC, READ_ONLINE; and the worker's own place in its loop (R260). -/

namespace Sys2Proof.Machine

/-- `W_RECV l` (R261): pop one unit and feed it to the link's decoder, in one step. -/
def execWRecv (l : Byte) (s : State) : Out :=
  onLink (.wRecv l) l s fun c k =>
    if popReady s.cfg c k then
      let f := popped s.cfg c k
      let k' := k.dequeue s.cfg c
      match c.kind with
      | .fixedA => .next (s.settle l c (validateA s.cfg s.now f k'))
      | .fixedB => .next (s.settle l c (validateB s.cfg s.now f k'))
      | .stream => s.settleSync l c (sync s.cfg (byteAt f 0) k')
    else s.raise .notReady

/-- `W_LIVE l` (R264): LIVE_CHECK, then the next wait starts now. -/
def execWLive (l : Byte) (s : State) : Out :=
  onLink (.wLive l) l s fun c k =>
    .next (s.checkLive l c (livenessLost c s.now k) { k with waitStart := s.now })

/-- `READ_CTRL l` (R270): a snapshot. -/
def execReadCtrl (l : Byte) (s : State) : Out :=
  onLink (.readCtrl l) l s fun _ k => .next (s.respond .ok (.ctrl k.ctrl))

/-- The `REC_SIZE(c)` bytes of `rec[l][c]` (R271). -/
def Link.record (cfg : Config) (c : Half) (k : Link) : List Byte :=
  k.records.readAt (recordKey c) 0 ((recordSize cfg c).getD 0)

/-- `READ_REC l, c` (R271): a snapshot. -/
def execReadRec (l : Byte) (c : Half) (s : State) : Out :=
  onLink (.readRec l c) l s fun _ k => .next (s.respond .ok (.bytes (k.record s.cfg c)))

/-- `READ_ONLINE l` (R272). -/
def execReadOnline (l : Byte) (s : State) : Out :=
  onLink (.readOnline l) l s fun _ k => .next (s.respond .ok (.bit k.online))

/-! ### The worker's place in its loop -/

/-- Which half of its loop a worker is in after an operation of its own: a frame taken or a wait timed out leads to the
liveness half, and that leads back (R260, R28; log 8). -/
def phaseAfter (i : Instr) (st : Status) : Option (Byte × Phase) :=
  match i with
  | .wRecv l => if st = .notReady ∨ st = .illegalOp then none else some (l, .live)
  | .popTimeout l => if st = .timedOut then some (l, .live) else none
  | .wLive l => if st = .illegalOp then none else some (l, .recv)
  | .reset | .push _ _ | .pop _ | .rx _ _ | .admitPrio _ | .markAlive _ | .liveCheck _ | .markTimeout _ | .activeSrc => none
  | .syncByte _ _ | .validateA _ _ | .validateB _ _ | .crc8Verify _ | .crc16Verify _ | .crc8Append _ => none
  | .crc16Append _ | .evalSw _ _ _ | .evalBtn _ _ _ | .readCtrl _ | .readRec _ _ | .readOnline _ => none

/-- Record the worker's place. -/
def State.withPhase (s : State) (l : Byte) (p : Phase) : State :=
  { s with links := s.links.modify l.toNat fun k => { k with wphase := p } }

/-- After an operation, the agent that issued it moves on in its program (R260). -/
def keepPlace (i : Instr) : Out → Out
  | .next t =>
    match phaseAfter i t.resp.status with
    | some (l, p) => .next (t.withPhase l p)
    | none => .next t
  | .fault f => .fault f
  | .refused r => .refused r

end Sys2Proof.Machine
end

