-- ==== Sys2Proof/Machine/Dispatch.lean ====
section
/-! DEFINITION. One arm per operation of spec/opcode_table.json. -/

namespace Sys2Proof.Machine

def exec (i : Instr) (s : State) : Host.Outcome State Fault Refusal :=
  match i with
  | .reset => Sys2Proof.Machine.execReset s
  | .push l bytes => Sys2Proof.Machine.execPush l bytes s
  | .pop l => Sys2Proof.Machine.execPop l s
  | .popTimeout l => Sys2Proof.Machine.execPopTimeout l s
  | .rx l burst => Sys2Proof.Machine.execRx l burst s
  | .admitPrio p => Sys2Proof.Machine.execAdmit p s
  | .markAlive l => Sys2Proof.Machine.execMarkAlive l s
  | .liveCheck l => Sys2Proof.Machine.execLiveCheck l s
  | .markTimeout l => Sys2Proof.Machine.execMarkTimeout l s
  | .activeSrc => Sys2Proof.Machine.execActiveSrc s
  | .syncByte l b => Sys2Proof.Machine.execSyncByte l b s
  | .validateA l frame => Sys2Proof.Machine.execValidateA l frame s
  | .validateB l frame => Sys2Proof.Machine.execValidateB l frame s
  | .crc8Verify bytes => Sys2Proof.Machine.execCrc8Verify bytes s
  | .crc16Verify bytes => Sys2Proof.Machine.execCrc16Verify bytes s
  | .crc8Append bytes => Sys2Proof.Machine.execCrc8Append bytes s
  | .crc16Append bytes => Sys2Proof.Machine.execCrc16Append bytes s
  | .evalSw l e v => Sys2Proof.Machine.execEvalSw l e v s
  | .evalBtn l e v => Sys2Proof.Machine.execEvalBtn l e v s
  | .wRecv l => Sys2Proof.Machine.execWRecv l s
  | .wLive l => Sys2Proof.Machine.execWLive l s
  | .readCtrl l => Sys2Proof.Machine.execReadCtrl l s
  | .readRec l c => Sys2Proof.Machine.execReadRec l c s
  | .readOnline l => Sys2Proof.Machine.execReadOnline l s

end Sys2Proof.Machine
end

