-- ==== Sys2Proof/WellFormed.lean ====
section
/-! DEFINITION. Which instruction terms an encoding can hold. The operand types carry the widths of 30_encoding.md R91;
the one condition left is that the byte count of a format CN operand fits the 16-bit field `n`. Conditions on the
configuration (R93) are no part of this: a legal word may name a link that does not exist. -/

namespace Sys2Proof

/-- A byte list whose length fits `cmd[15:0]` (R91, format CN). -/
def countFits (bytes : List Byte) : Bool := decide (bytes.length < 65536)

/-- The terms that `encode` writes without loss. -/
def Instr.wf : Instr → Bool
  | .reset => true
  | .push _ bytes => countFits bytes
  | .pop _ => true
  | .popTimeout _ => true
  | .rx _ burst => countFits burst
  | .admitPrio _ => true
  | .markAlive _ => true
  | .liveCheck _ => true
  | .markTimeout _ => true
  | .activeSrc => true
  | .syncByte _ _ => true
  | .validateA _ frame => countFits frame
  | .validateB _ frame => countFits frame
  | .crc8Verify bytes => countFits bytes
  | .crc16Verify bytes => countFits bytes
  | .crc8Append bytes => countFits bytes
  | .crc16Append bytes => countFits bytes
  | .evalSw _ _ _ => true
  | .evalBtn _ _ _ => true
  | .wRecv _ => true
  | .wLive _ => true
  | .readCtrl _ => true
  | .readRec _ _ => true
  | .readOnline _ => true

end Sys2Proof
end

