-- ==== Sys2Proof/Decode.lean ====
section
/-! DEFINITION. Decoding and encoding of command words (30_encoding.md R91 to R95). Decoding is total: a word that is
illegal whatever the configuration is rejected by name, and `step` answers it with ILLEGAL_OP (R93). The conditions of
R93 on the configuration (does the link exist, is it of the right kind, does the entry or record exist) belong to the
meanings, which know it. -/

namespace Sys2Proof

/-- Why a command is illegal whatever the configuration (R93). -/
inductive DecodeError where
  /-- `op` is not in the table of R92. -/
  | reservedOp
  /-- A field the format defines as 0 is not 0. -/
  | nonzeroField
  /-- A CP priority is neither 0 to 31 nor 0xFF. -/
  | badPriority
  /-- `EVAL_BTN` with `v[1] = 1`. -/
  | badLevel
  /-- The number of data bytes is not the one the word asks for: `n` for format CN, none for any other. -/
  | dataMismatch
  deriving DecidableEq, Repr

/-- What a decoder answers. -/
abbrev Decoded := Except DecodeError Instr

/-! ### Fields of the command word (R91) -/

/-- `cmd[31:24]`. -/
def opField (cmd : Word) : Byte := cmd.extractLsb' 24 8
/-- `cmd[23:16]`. -/
def linkField (cmd : Word) : Byte := cmd.extractLsb' 16 8
/-- `arg[15:8]`. -/
def argHigh (cmd : Word) : Byte := cmd.extractLsb' 8 8
/-- `arg[7:0]`. -/
def argLow (cmd : Word) : Byte := cmd.extractLsb' 0 8
/-- `cmd[15:0]`. -/
def argField (cmd : Word) : Half := cmd.extractLsb' 0 16

/-! ### The formats (R91) -/

/-- No data bytes follow the word. -/
def noData (data : List Byte) (i : Decoded) : Decoded :=
  if data.isEmpty then i else .error .dataMismatch

/-- The link field is not used and must be 0. -/
def noLink (cmd : Word) (i : Decoded) : Decoded :=
  if linkField cmd = 0#8 then i else .error .nonzeroField

/-- Format C0. -/
def formatC0 (cmd : Word) (data : List Byte) (i : Instr) : Decoded :=
  noData data (if argField cmd = 0#16 then .ok i else .error .nonzeroField)

/-- Format CB. -/
def formatCB (cmd : Word) (data : List Byte) (mk : Byte → Instr) : Decoded :=
  noData data (if argHigh cmd = 0#8 then .ok (mk (argLow cmd)) else .error .nonzeroField)

/-- A CP operand: a priority index 0 to 31, or 0xFF for none. -/
def priorityOf (b : Byte) : Option (Option Prio) :=
  if b = 0xFF#8 then some none
  else if h : b.toNat < 32 then some (some ⟨b.toNat, h⟩) else none

/-- Format CP. -/
def formatCP (cmd : Word) (data : List Byte) (mk : Option Prio → Instr) : Decoded :=
  noData data
    (if argHigh cmd = 0#8 then
      match priorityOf (argLow cmd) with
      | some p => .ok (mk p)
      | none => .error .badPriority
    else .error .nonzeroField)

/-- Format CE with a 2-bit code. -/
def formatCE (cmd : Word) (data : List Byte) (mk : Byte → BitVec 2 → Instr) : Decoded :=
  noData data
    (if (argLow cmd).extractLsb' 2 6 = 0#6 then .ok (mk (argHigh cmd) ((argLow cmd).extractLsb' 0 2))
    else .error .nonzeroField)

/-- Format CE with a level in bit 0: bit 1 must be 0 (R93). -/
def formatCELevel (cmd : Word) (data : List Byte) (mk : Byte → Bool → Instr) : Decoded :=
  noData data
    (if (argLow cmd).extractLsb' 2 6 = 0#6 then
      if (argLow cmd).getLsbD 1 then .error .badLevel
      else .ok (mk (argHigh cmd) ((argLow cmd).getLsbD 0))
    else .error .nonzeroField)

/-- `data` has exactly `n` bytes. -/
def hasCount : List Byte → Nat → Bool
  | [], n => n == 0
  | _ :: rest, n => if n == 0 then false else hasCount rest (n - 1)

/-- Format CN: `n` data bytes follow the word. -/
def formatCN (cmd : Word) (data : List Byte) (mk : List Byte → Instr) : Decoded :=
  if hasCount data (argField cmd).toNat then .ok (mk data) else .error .dataMismatch

/-- Format CR. -/
def formatCR (cmd : Word) (data : List Byte) (mk : Half → Instr) : Decoded :=
  noData data (.ok (mk (argField cmd)))

/-- The decoder: the table of R92, one row an operation. -/
def decode (cmd : Word) (data : List Byte) : Decoded :=
  match (opField cmd).toNat with
  | 0x00 => noLink cmd (formatC0 cmd data .reset)
  | 0x10 => formatCN cmd data (.push (linkField cmd))
  | 0x11 => formatC0 cmd data (.pop (linkField cmd))
  | 0x12 => formatC0 cmd data (.popTimeout (linkField cmd))
  | 0x13 => formatCN cmd data (.rx (linkField cmd))
  | 0x20 => noLink cmd (formatCP cmd data .admitPrio)
  | 0x21 => formatC0 cmd data (.markAlive (linkField cmd))
  | 0x22 => formatC0 cmd data (.liveCheck (linkField cmd))
  | 0x23 => formatC0 cmd data (.markTimeout (linkField cmd))
  | 0x24 => noLink cmd (formatC0 cmd data .activeSrc)
  | 0x30 => formatCB cmd data (.syncByte (linkField cmd))
  | 0x40 => formatCN cmd data (.validateA (linkField cmd))
  | 0x41 => formatCN cmd data (.validateB (linkField cmd))
  | 0x42 => noLink cmd (formatCN cmd data .crc8Verify)
  | 0x43 => noLink cmd (formatCN cmd data .crc16Verify)
  | 0x44 => noLink cmd (formatCN cmd data .crc8Append)
  | 0x45 => noLink cmd (formatCN cmd data .crc16Append)
  | 0x50 => formatCE cmd data (.evalSw (linkField cmd))
  | 0x51 => formatCELevel cmd data (.evalBtn (linkField cmd))
  | 0x60 => formatC0 cmd data (.wRecv (linkField cmd))
  | 0x61 => formatC0 cmd data (.wLive (linkField cmd))
  | 0x70 => formatC0 cmd data (.readCtrl (linkField cmd))
  | 0x71 => formatCR cmd data (.readRec (linkField cmd))
  | 0x72 => formatC0 cmd data (.readOnline (linkField cmd))
  | _ => .error .reservedOp

/-! ### The encoder, from the same table -/

/-- The operation code of R92. -/
def Instr.op : Instr → Byte
  | .reset => 0x00#8
  | .push _ _ => 0x10#8
  | .pop _ => 0x11#8
  | .popTimeout _ => 0x12#8
  | .rx _ _ => 0x13#8
  | .admitPrio _ => 0x20#8
  | .markAlive _ => 0x21#8
  | .liveCheck _ => 0x22#8
  | .markTimeout _ => 0x23#8
  | .activeSrc => 0x24#8
  | .syncByte _ _ => 0x30#8
  | .validateA _ _ => 0x40#8
  | .validateB _ _ => 0x41#8
  | .crc8Verify _ => 0x42#8
  | .crc16Verify _ => 0x43#8
  | .crc8Append _ => 0x44#8
  | .crc16Append _ => 0x45#8
  | .evalSw _ _ _ => 0x50#8
  | .evalBtn _ _ _ => 0x51#8
  | .wRecv _ => 0x60#8
  | .wLive _ => 0x61#8
  | .readCtrl _ => 0x70#8
  | .readRec _ _ => 0x71#8
  | .readOnline _ => 0x72#8

/-- The link the operation uses, if it uses one (R91). -/
def Instr.link? : Instr → Option Byte
  | .reset => none
  | .push l _ => some l
  | .pop l => some l
  | .popTimeout l => some l
  | .rx l _ => some l
  | .admitPrio _ => none
  | .markAlive l => some l
  | .liveCheck l => some l
  | .markTimeout l => some l
  | .activeSrc => none
  | .syncByte l _ => some l
  | .validateA l _ => some l
  | .validateB l _ => some l
  | .crc8Verify _ => none
  | .crc16Verify _ => none
  | .crc8Append _ => none
  | .crc16Append _ => none
  | .evalSw l _ _ => some l
  | .evalBtn l _ _ => some l
  | .wRecv l => some l
  | .wLive l => some l
  | .readCtrl l => some l
  | .readRec l _ => some l
  | .readOnline l => some l

/-- The data bytes of a burst format; no bytes for any other (R90). -/
def Instr.data : Instr → List Byte
  | .reset => []
  | .push _ bytes => bytes
  | .pop _ => []
  | .popTimeout _ => []
  | .rx _ bytes => bytes
  | .admitPrio _ => []
  | .markAlive _ => []
  | .liveCheck _ => []
  | .markTimeout _ => []
  | .activeSrc => []
  | .syncByte _ _ => []
  | .validateA _ bytes => bytes
  | .validateB _ bytes => bytes
  | .crc8Verify bytes => bytes
  | .crc16Verify bytes => bytes
  | .crc8Append bytes => bytes
  | .crc16Append bytes => bytes
  | .evalSw _ _ _ => []
  | .evalBtn _ _ _ => []
  | .wRecv _ => []
  | .wLive _ => []
  | .readCtrl _ => []
  | .readRec _ _ => []
  | .readOnline _ => []

/-- A CP operand as a byte. -/
def priorityByte : Option Prio → Byte
  | none => 0xFF#8
  | some p => BitVec.ofNat 8 p.val

/-- The `arg` field (R91). -/
def Instr.arg : Instr → Half
  | .reset => 0#16
  | .push _ bytes => BitVec.ofNat 16 bytes.length
  | .pop _ => 0#16
  | .popTimeout _ => 0#16
  | .rx _ bytes => BitVec.ofNat 16 bytes.length
  | .admitPrio p => 0#8 ++ priorityByte p
  | .markAlive _ => 0#16
  | .liveCheck _ => 0#16
  | .markTimeout _ => 0#16
  | .activeSrc => 0#16
  | .syncByte _ b => 0#8 ++ b
  | .validateA _ bytes => BitVec.ofNat 16 bytes.length
  | .validateB _ bytes => BitVec.ofNat 16 bytes.length
  | .crc8Verify bytes => BitVec.ofNat 16 bytes.length
  | .crc16Verify bytes => BitVec.ofNat 16 bytes.length
  | .crc8Append bytes => BitVec.ofNat 16 bytes.length
  | .crc16Append bytes => BitVec.ofNat 16 bytes.length
  | .evalSw _ e v => e ++ (0#6 ++ v)
  | .evalBtn _ e v => e ++ (0#7 ++ BitVec.ofBool v)
  | .wRecv _ => 0#16
  | .wLive _ => 0#16
  | .readCtrl _ => 0#16
  | .readRec _ c => c
  | .readOnline _ => 0#16

/-- A command word from its three fields: `op`, `link`, `arg` (R91). -/
def packWord (op l : Byte) (arg : Half) : Word := op ++ (l ++ arg)

/-- The command word and the data bytes of an instruction. -/
def encode (i : Instr) : Word × List Byte :=
  (packWord i.op (i.link?.getD 0#8) i.arg, i.data)

/-! ### The opcode table's numbering of bits

The host numbers the bits of an instruction from the least significant bit of the command word; data bytes count on
from bit 32, the first byte lowest. -/

/-- Whether an operation code takes format CN (R92). -/
def isCounted (op : Byte) : Bool :=
  decide (op ∈ [0x10#8, 0x13#8, 0x40#8, 0x41#8, 0x42#8, 0x43#8, 0x44#8, 0x45#8])

/-- The `n` lowest bytes of `v`, the lowest first. -/
def bytesOfNat : Nat → Nat → List Byte
  | 0, _ => []
  | n + 1, v => BitVec.ofNat 8 v :: bytesOfNat n (v >>> 8)

/-- The command word of an instruction whose lowest `nbits` bits are those of `w`, every other bit 0. -/
def tableWord (nbits w : Nat) : Word := BitVec.ofNat 32 (w % 2 ^ nbits)

/-- The data bytes of the same instruction: as many as its word asks for. -/
def tableData (nbits w : Nat) : List Byte :=
  let cmd := tableWord nbits w
  if isCounted (opField cmd) then bytesOfNat (argField cmd).toNat ((w % 2 ^ nbits) >>> 32) else []

/-- The instruction the decoder reads from an instruction whose bits are `w`. -/
def decodeTableWord (nbits w : Nat) : Option Instr :=
  match decode (tableWord nbits w) (tableData nbits w) with
  | .ok i => some i
  | .error _ => none

end Sys2Proof
end

