-- ==== Sys2Proof/Machine/Fetch.lean ====
section
/-! DEFINITION. How the block comes by its next request (30_encoding.md R90): the environment's list, taken in order, each
request with the clock sample it is presented with (log 1). -/

namespace Sys2Proof.Machine

/-- Take the first waiting request and sample its `now` (R90, R14). -/
def fetch (s : State) : Option (Request × State) :=
  match s.requests with
  | [] => none
  | r :: rest => some (r, { s with requests := rest, now := r.now })

/-- No agent presents a request: nothing happens (log 16). -/
def idle (s : State) : Out := .next s

/-- The request that the opcode table's numbering of bits describes, presented at the clock value `now`. -/
def tableRequest (nbits w : Nat) (now : Word) : Request :=
  { word := tableWord nbits w, data := tableData nbits w, now := now }

/-- Present a request before all that wait. -/
def State.present (s : State) (r : Request) : State := { s with requests := r :: s.requests }

/-! ### Continuously readable outputs (R90) -/

/-- `online[l]` of every link, `prio_mask` and ACTIVE_SRC. -/
structure Outputs where
  online     : List Bool
  prioMask   : Word
  activeSrc  : Option Prio
  deriving DecidableEq, Repr

/-- The outputs of a state. -/
def State.outputs (s : State) : Outputs :=
  { online := s.links.map (·.online), prioMask := s.prioMask, activeSrc := activeSource s.prioMask }

end Sys2Proof.Machine
end

