-- ==== Sys2Proof/Machine/Step.lean ====
section
/-! DEFINITION. One step of the machine: one transaction (30_encoding.md R90, 20_memory.md R70). -/

namespace Sys2Proof.Machine

/-- Run a decoded request; an illegal word answers ILLEGAL_OP and changes no state (R93). -/
def runDecoded (d : Decoded) (s : State) : Out :=
  match d with
  | .ok i => keepPlace i (exec i s)
  | .error _ => s.raise .illegalOp

/-- One step: take the next request, decode it, execute it. -/
def step (s : State) : Host.Outcome State Fault Refusal :=
  match fetch s with
  | some (r, t) => runDecoded (decode r.word r.data) t
  | none => idle s

/-- `s` with the instruction of the opcode table's bits `w` as its next request, at the present clock value. -/
def State.withFetchWord (s : State) (nbits w : Nat) : State := s.present (tableRequest nbits w s.now)

end Sys2Proof.Machine
end

