-- ==== Sys2Proof/Machine/Agents.lean ====
section
/-! DEFINITION. The agents of the block and their steps (00_scope.md R7, R8, 60_exceptions.md R296). The block does not
check who issues an operation, so `step` reads no identity; the table of R296 is enforced here, by construction: an agent's
step is built from the operations of its own context, on its own link. The worker's loop (45_link_sequencer.md R260,
40_byte_channel.md R134) and the interleavings of the agents' steps (20_memory.md R70) are built from such steps. -/

namespace Sys2Proof.Machine

/-! ### Agents and what each may issue (R296) -/

/-- The agents of R7: one interrupt agent `ISR(l)` and one worker `W(l)` for each link, consumers, the environment. -/
inductive Agent where
  | environment
  | interrupt (l : Byte)
  | worker (l : Byte)
  | consumer
  deriving DecidableEq, Repr

/-- The operations of `ISR(l)`, on its own link. -/
inductive InterruptOp where
  | rx (burst : List Byte)
  | push (bytes : List Byte)
  /-- `ADMIT p` with `p = PRIO(l)` (R151). -/
  | admitOwn
  deriving DecidableEq, Repr

/-- The operations of `W(l)`, on its own link. -/
inductive WorkerOp where
  | pop
  | popTimeout
  | wRecv
  | wLive
  | syncByte (b : Byte)
  | validateA (frame : List Byte)
  | validateB (frame : List Byte)
  | evalSw (e : Byte) (v : BitVec 2)
  | evalBtn (e : Byte) (v : Bool)
  | markAlive
  | liveCheck
  | markTimeout
  deriving DecidableEq, Repr

/-- The operations of a consumer, on any link. -/
inductive ConsumerOp where
  | readCtrl (l : Byte)
  | readRec (l : Byte) (c : Half)
  | readOnline (l : Byte)
  | activeSrc
  deriving DecidableEq, Repr

/-- The CRC operations, which every context may issue. -/
inductive ChecksumOp where
  | crc8Verify (bytes : List Byte)
  | crc16Verify (bytes : List Byte)
  | crc8Append (bytes : List Byte)
  | crc16Append (bytes : List Byte)
  deriving DecidableEq, Repr

/-- An agent with an operation that it may issue: the rows of R296's table, and nothing else. -/
inductive AgentOp where
  /-- RESET, "issued by the environment only". -/
  | environment
  | interrupt (l : Byte) (op : InterruptOp)
  | worker (l : Byte) (op : WorkerOp)
  | consumer (op : ConsumerOp)
  | checksum (who : Agent) (op : ChecksumOp)
  deriving DecidableEq, Repr

/-- Who takes the step. -/
def AgentOp.agent : AgentOp → Agent
  | .environment => .environment
  | .interrupt l _ => .interrupt l
  | .worker l _ => .worker l
  | .consumer _ => .consumer
  | .checksum who _ => who

/-- The priority index of a link, none where there is no such link. -/
def priorityOfLink (cfg : Config) (l : Byte) : Option Prio := (cfg.links[l.toNat]?).bind (·.prio)

/-- The block's operation that `ISR(l)` issues. -/
def InterruptOp.instr (cfg : Config) (l : Byte) : InterruptOp → Instr
  | .rx burst => .rx l burst
  | .push bytes => .push l bytes
  | .admitOwn => .admitPrio (priorityOfLink cfg l)

/-- The block's operation that `W(l)` issues. -/
def WorkerOp.instr (l : Byte) : WorkerOp → Instr
  | .pop => .pop l
  | .popTimeout => .popTimeout l
  | .wRecv => .wRecv l
  | .wLive => .wLive l
  | .syncByte b => .syncByte l b
  | .validateA frame => .validateA l frame
  | .validateB frame => .validateB l frame
  | .evalSw e v => .evalSw l e v
  | .evalBtn e v => .evalBtn l e v
  | .markAlive => .markAlive l
  | .liveCheck => .liveCheck l
  | .markTimeout => .markTimeout l

/-- The block's operation that a consumer issues. -/
def ConsumerOp.instr : ConsumerOp → Instr
  | .readCtrl l => .readCtrl l
  | .readRec l c => .readRec l c
  | .readOnline l => .readOnline l
  | .activeSrc => .activeSrc

/-- The block's operation behind a CRC operation. -/
def ChecksumOp.instr : ChecksumOp → Instr
  | .crc8Verify bytes => .crc8Verify bytes
  | .crc16Verify bytes => .crc16Verify bytes
  | .crc8Append bytes => .crc8Append bytes
  | .crc16Append bytes => .crc16Append bytes

/-- The block's operation that the agent issues. -/
def AgentOp.instr (cfg : Config) : AgentOp → Instr
  | .environment => .reset
  | .interrupt l op => op.instr cfg l
  | .worker l op => op.instr l
  | .consumer op => op.instr
  | .checksum _ op => op.instr

/-! ### Steps of the agents -/

/-- The agent exists: `ISR(l)` and `W(l)` for the links of the configuration (R7). -/
def Agent.isOf (cfg : Config) : Agent → Bool
  | .environment => true
  | .interrupt l => decide (l.toNat < cfg.links.length)
  | .worker l => decide (l.toNat < cfg.links.length)
  | .consumer => true

/-- The agent exists, and its operation has a command word: at most 65535 bytes (30_encoding.md R91). -/
def AgentOp.isOf (cfg : Config) (a : AgentOp) : Bool := a.agent.isOf cfg && (a.instr cfg).wf

/-- One step of an agent at the clock value `now`: the one transaction of its operation (R70); an agent that is not there
takes no step. -/
def agentStep (a : AgentOp) (now : Word) (s : State) : Out :=
  if a.isOf s.cfg then runDecoded (.ok (a.instr s.cfg)) { s with now := now } else idle s

/-- One interleaving: the agents' steps in one order, each at its clock value (R70, R292). -/
def agentRun : List (AgentOp × Word) → State → Out
  | [], s => .next s
  | (a, now) :: rest, s =>
    match agentStep a now s with
    | .next t => agentRun rest t
    | .fault f => .fault f
    | .refused r => .refused r

/-! ### The worker's loop (R260, R134) -/

/-- What `W(l)` does next: in the half RECV it takes a unit if there is one, times out if its deadline has passed, and is
suspended (`none`) otherwise; in the half LIVE it makes the liveness check. -/
def workerNext (cfg : Config) (c : LinkCfg) (now : Word) (k : Link) : Option WorkerOp :=
  match k.wphase with
  | .live => some .wLive
  | .recv =>
    if popReady cfg c k then some .wRecv
    else if waitExpired c now k then some .popTimeout
    else none

/-- A turn of `W(l)`: the step its loop takes next, or none while it is suspended (60_exceptions.md R301). -/
def workerTurn (l : Byte) (now : Word) (s : State) : Out :=
  match s.cfg.links[l.toNat]?, s.links[l.toNat]? with
  | some c, some k =>
    match workerNext s.cfg c now k with
    | some op => agentStep (.worker l op) now s
    | none => idle s
  | _, _ => idle s

end Sys2Proof.Machine
end

