-- ==== Sys2Proof/Safety.lean ====
section
/-! DEFINITION. The terms in which claims speak: the contexts of 60_exceptions.md R296, and the invariants that the spec
states for the block's registers and stores. None of it is read by `step`. -/

namespace Sys2Proof.Machine

/-! ### Who issues what (R8, R92, R296) -/

/-- The execution contexts of R296. -/
inductive Context where
  | environment
  | interrupt
  | worker
  | consumer
  | any
  deriving DecidableEq, Repr

/-- The context that may issue an operation. The block does not check it; the agents' steps of Machine/Agents.lean keep to it by
construction (R296, log 15). -/
def issuer : Instr → Context
  | .reset => .environment
  | .push _ _ => .interrupt
  | .pop _ => .worker
  | .popTimeout _ => .worker
  | .rx _ _ => .interrupt
  | .admitPrio _ => .interrupt
  | .markAlive _ => .worker
  | .liveCheck _ => .worker
  | .markTimeout _ => .worker
  | .activeSrc => .consumer
  | .syncByte _ _ => .worker
  | .validateA _ _ => .worker
  | .validateB _ _ => .worker
  | .crc8Verify _ => .any
  | .crc16Verify _ => .any
  | .crc8Append _ => .any
  | .crc16Append _ => .any
  | .evalSw _ _ _ => .worker
  | .evalBtn _ _ _ => .worker
  | .wRecv _ => .worker
  | .wLive _ => .worker
  | .readCtrl _ => .consumer
  | .readRec _ _ => .consumer
  | .readOnline _ => .consumer

/-- The context of R296 that an agent's operation belongs to. -/
def AgentOp.context : AgentOp → Context
  | .environment => .environment
  | .interrupt _ _ => .interrupt
  | .worker _ _ => .worker
  | .consumer _ => .consumer
  | .checksum _ _ => .any

/-- Link `l` with its parameters. -/
def State.HasLink (s : State) (l : Byte) (c : LinkCfg) (k : Link) : Prop :=
  s.cfg.links[l.toNat]? = some c ∧ s.links[l.toNat]? = some k

/-- A property of every link, given its parameters. -/
def State.Every (s : State) (p : LinkCfg → Link → Prop) : Prop :=
  ∀ x ∈ s.cfg.links.zip s.links, p x.1 x.2

/-! ### Invariants -/

/-- Every link of the configuration exists, with the entries of 10_state.md R37. -/
def State.Shaped (s : State) : Prop :=
  s.links.length = s.cfg.links.length
    ∧ s.Every fun c k => k.ctrl.sw.length = switchCount c.kind ∧ k.ctrl.btn.length = buttonCount s.cfg c.kind

/-- `0 <= len(q[l]) <= FIFO_CAP(l)` (R26, 40_byte_channel.md R137). -/
def State.QueuesBounded (s : State) : Prop := s.Every fun c k => k.q.length ≤ c.fifoCap

/-- The cursor's values in each step (R31, R32). -/
def cursorOk (k : Link) : Prop :=
  match k.step with
  | .seekSof => k.index.toNat = 0
  | .lenLow => k.index.toNat = 1
  | .lenHigh => k.index.toNat = 2 ∧ k.declaredLength.toNat < 256
  | .seq => k.index.toNat = 3 ∧ k.declaredLength.toNat ≤ Config.lMax
  | .headerCrc8 => k.index.toNat = 4 ∧ k.declaredLength.toNat ≤ Config.lMax
  | .bodyCrc16 => 5 ≤ k.index.toNat ∧ k.index.toNat ≤ k.declaredLength.toNat + 8 ∧ k.declaredLength.toNat ≤ Config.lMax

/-- `cursorOk` of every link. -/
def State.CursorsOk (s : State) : Prop := s.Every fun _ k => cursorOk k

/-- What R38 says of a switch entry: only four fields are used, the event is NONE or an EDGE to the stable code. -/
def switchOk (e : Entry) : Prop :=
  (e.event = Event.idle ∨ (e.event.kind = .edge ∧ e.event.src ≠ e.event.dst ∧ e.event.dst = e.stableState))
    ∧ e.pressTime = 0#32 ∧ e.releaseTime = 0#32 ∧ e.holdTime = 0#32 ∧ e.repeatCount = 0#8 ∧ e.pending = false
    ∧ e.holdStart = 0#32

/-- What R39 says of a button entry; (a) with the events that R122 gives a button. -/
def buttonOk (e : Entry) : Prop :=
  (e.event = Event.idle ∨ e.event = risingEvent ∨ e.event = fallingEvent ∨ e.event = pressedEvent ∨ e.event = heldEvent)
    ∧ (e.pending = true → e.stableState = 0#2)
    ∧ (e.event.kind = .held → e.stableState = 1#2)
    ∧ e.rawState.getLsbD 1 = false ∧ e.stableState.getLsbD 1 = false

/-- R38, R39 for every entry of every link. -/
def State.EntriesOk (s : State) : Prop :=
  s.Every fun _ k => (∀ e ∈ k.ctrl.sw, switchOk e) ∧ (∀ e ∈ k.ctrl.btn, buttonOk e)

/-- Every byte listed in the record store lies inside the record of an enabled identifier (R35, R271). -/
def recordsInside (cfg : Config) (m : Mem) : Prop :=
  ∀ x ∈ m, x.1 / 65536 < (enabledSize cfg (BitVec.ofNat 16 x.1)).getD 0

/-- The spaces of every link are in canonical form and inside their bounds (20_memory.md R60, R69). -/
def State.SpacesOk (s : State) : Prop :=
  s.Every fun c k =>
    k.rxbuf.wf = true ∧ k.scratch.wf = true ∧ k.records.wf = true
      ∧ (∀ x ∈ k.rxbuf, x.1 < bufferSize s.cfg c.kind) ∧ (∀ x ∈ k.scratch, x.1 < Config.maxFrame)
      ∧ recordsInside s.cfg k.records

/-- "Bits whose index is no link's priority are never set and read 0" (R22). -/
def State.MaskOwned (s : State) : Prop :=
  ∀ p : Prio, s.prioMask.getLsbD p.val = true → ∃ c ∈ s.cfg.links, c.prio = some p

/-- A link with a priority is online exactly when its bit is set (41_arbiter_liveness.md R152, R154). -/
def State.FlagsAgree (s : State) : Prop :=
  s.Every fun c k => ∀ p : Prio, c.prio = some p → k.online = s.prioMask.getLsbD p.val

/-! ### Sequences of operations on one Byte Channel (R137) -/

/-- One operation of a Byte Channel: PUSH of a burst, or POP. -/
inductive ChannelOp where
  | push (bytes : List Byte)
  | pop
  deriving DecidableEq, Repr

/-- The operation as the block's instruction on link `l`. -/
def ChannelOp.instr (l : Byte) : ChannelOp → Instr
  | .push bytes => .push l bytes
  | .pop => .pop l

/-- The bytes an operation put into the channel, read off its response: those of a PUSH that answered OK. -/
def ChannelOp.entered (op : ChannelOp) (r : Response) : List Byte :=
  match op, r.status with
  | .push bytes, .ok => bytes
  | _, _ => []

/-- The bytes an operation took out of the channel: the result of a POP. -/
def ChannelOp.left (op : ChannelOp) (r : Response) : List Byte :=
  match op, r.result with
  | .pop, .bytes v => v
  | _, _ => []

/-- Run operations on link `l`, collecting all bytes that entered and all that left; `none` if one does not complete. -/
def runChannel (l : Byte) : List ChannelOp → State → Option (List Byte × List Byte × State)
  | [], s => some ([], [], s)
  | op :: ops, s =>
    match exec (op.instr l) s with
    | .next t =>
      match runChannel l ops t with
      | some (ins, outs, u) => some (op.entered t.resp ++ ins, op.left t.resp ++ outs, u)
      | none => none
    | .fault _ => none
    | .refused _ => none

end Sys2Proof.Machine
end

