-- ==== Sys2Proof/Certificates/Slice0/Obligations.lean ====
section
/-! DEFINITION. The statements about the block. Each docstring names the rules it formalises. Every statement quantifies
over the configuration (`s.cfg`), the clock and the free values; none rests on REFCFG or on the fixture CRCs, but where
its docstring says so. -/

open Sys2Proof Sys2Proof.Machine

/-! ### Encoding -/

/-- R91, R92, R95: the encoding of every instruction a word can hold decodes to it, with every operand at every value. -/
def Obligations.DecodeOfEncodeIsTheInstruction : Prop :=
  ∀ i : Instr, i.wf = true → decode (encode i).1 (encode i).2 = .ok i

/-- R91 to R95: a command that decodes is the encoding of what it decodes to, so no bit of a legal word is ignored. -/
def Obligations.EncodeOfDecodeIsTheCommand : Prop :=
  ∀ (w : Word) (data : List Byte) (i : Instr), decode w data = .ok i → i.wf = true ∧ encode i = (w, data)

/-- R92, R93, V50: words written out from the table decode to the operations they stand for; of the illegal commands of
V50, those whose word alone is illegal do not decode, and the others decode to an operation that is illegal under REFCFG
(log 3), under which V50 is stated. -/
def Obligations.WrittenWordsDecode : Prop :=
  decode 0x00000000#32 [] = .ok .reset
    ∧ decode 0x13020002#32 [0xA5#8, 0x01#8] = .ok (.rx 2#8 [0xA5#8, 0x01#8])
    ∧ decode 0x200000FF#32 [] = .ok (.admitPrio none)
    ∧ decode 0x2000001F#32 [] = .ok (.admitPrio (some 31))
    ∧ decode 0x300255A5#32 [] = .error .nonzeroField
    ∧ decode 0x300200A5#32 [] = .ok (.syncByte 2#8 0xA5#8)
    ∧ decode 0x50010103#32 [] = .ok (.evalSw 1#8 1#8 3#2)
    ∧ decode 0x51010002#32 [] = .error .badLevel
    ∧ decode 0x71020003#32 [] = .ok (.readRec 2#8 3#16)
    ∧ decode 0x01000000#32 [] = .error .reservedOp
    ∧ decode 0x11010001#32 [] = .error .nonzeroField
    ∧ decode 0x20000020#32 [] = .error .badPriority
    ∧ decode 0x20010000#32 [] = .error .nonzeroField
    ∧ decode 0x13010012#32 (List.replicate 17 0#8) = .error .dataMismatch
    ∧ (∀ w ∈ [0x11030000#32, 0x30010055#32, 0x50010203#32, 0x51011201#32, 0x51001601#32, 0x71020004#32, 0x70020000#32],
        ∃ i, decode w [] = .ok i ∧ legal Config.refcfg i = false)
    ∧ (∃ i, decode 0x40000012#32 (List.replicate 18 0#8) = .ok i ∧ legal Config.refcfg i = false)
    ∧ ∀ w ∈ [0x51001501#32, 0x200000FF#32, 0x71020003#32], ∃ i, decode w [] = .ok i ∧ legal Config.refcfg i = true

/-! ### One step -/

/-- R70, R90: a step takes the first request, samples its clock, and runs the decoded operation; around it the model only
keeps the issuing worker's place (log 8). R296: an agent's step is the step of the machine on the agent's operation. -/
def Obligations.StepRunsTheDecodedRequest : Prop :=
  (∀ (s : State) (r : Request) (rest : List Request) (i : Instr), s.requests = r :: rest →
    decode r.word r.data = .ok i →
    step s = keepPlace i (exec i { s with requests := rest, now := r.now }))
  ∧ ∀ (s : State) (a : AgentOp) (r : Request), a.isOf s.cfg = true → decode r.word r.data = .ok (a.instr s.cfg) →
    agentStep a r.now s = step { s with requests := r :: s.requests }

/-- R93: a word that does not decode answers ILLEGAL_OP and changes nothing of the block. -/
def Obligations.IllegalWordChangesNothing : Prop :=
  ∀ (s : State) (r : Request) (rest : List Request) (e : DecodeError), s.requests = r :: rest →
    decode r.word r.data = .error e →
    step s = .next { s with requests := rest, now := r.now, resp := { status := .illegalOp, result := .none } }

/-- R93: the conditions on the configuration, one clause each: a link that does not exist, an operation that the kind of
the link does not take, an entry the link does not have, a record that does not exist. -/
def Obligations.IllegalUnderConfigurationChangesNothing : Prop :=
  ∀ (s : State),
    (∀ (i : Instr) (l : Byte), i.link? = some l → s.cfg.links[l.toNat]? = none →
      exec i s = .next (s.respond .illegalOp .none))
    ∧ ∀ (l : Byte) (c : LinkCfg), s.cfg.links[l.toNat]? = some c →
      (c.kind ≠ .stream → ∀ b, exec (.syncByte l b) s = .next (s.respond .illegalOp .none))
      ∧ (c.kind ≠ .stream → ∀ id, exec (.readRec l id) s = .next (s.respond .illegalOp .none))
      ∧ (c.kind ≠ .fixedA → ∀ f, exec (.validateA l f) s = .next (s.respond .illegalOp .none))
      ∧ (c.kind ≠ .fixedB → ∀ f, exec (.validateB l f) s = .next (s.respond .illegalOp .none))
      ∧ (c.kind = .stream → ∀ e v, exec (.evalSw l e v) s = .next (s.respond .illegalOp .none))
      ∧ (c.kind = .stream → ∀ e v, exec (.evalBtn l e v) s = .next (s.respond .illegalOp .none))
      ∧ (c.kind = .stream → exec (.readCtrl l) s = .next (s.respond .illegalOp .none))
      ∧ (∀ e v, switchCount c.kind ≤ e.toNat → exec (.evalSw l e v) s = .next (s.respond .illegalOp .none))
      ∧ (∀ e v, buttonCount s.cfg c.kind ≤ e.toNat →
          exec (.evalBtn l e v) s = .next (s.respond .illegalOp .none))
      ∧ (∀ id : Half, s.cfg.nCmd ≤ id.toNat → exec (.readRec l id) s = .next (s.respond .illegalOp .none))
      ∧ (∀ id : Half, (∀ m ∈ s.cfg.cmds, m.id ≠ id) → exec (.readRec l id) s = .next (s.respond .illegalOp .none))

/-- R93, R281: in a state that has the links and entries of its configuration, ILLEGAL_OP is answered to exactly the
commands that R93 calls illegal. -/
def Obligations.IllegalOpMeansIllegalCommand : Prop :=
  ∀ (i : Instr) (s t : State), s.Shaped → exec i s = .next t →
    (t.resp.status = .illegalOp ↔ legal s.cfg i = false)

/-- R260, R134, R28 (the model's choice of where `wphase` is kept: log 8): a unit taken or a wait timed out leads the worker
to LIVE, W_LIVE leads it back to RECV, and no other transaction but RESET moves the phase of any link; a turn of the worker
is the step that its loop enables, which never answers NOT_READY, or no step while it is suspended. -/
def Obligations.WorkerPhaseFollowsTheLoop : Prop :=
  (∀ (s t : State) (r : Request) (rest : List Request) (i : Instr), s.requests = r :: rest →
    decode r.word r.data = .ok i → step s = .next t →
    (∀ (l : Byte) (k : Link), t.links[l.toNat]? = some k →
      (i = .wRecv l → t.resp.status ≠ .notReady → t.resp.status ≠ .illegalOp → k.wphase = .live)
      ∧ (i = .popTimeout l → t.resp.status = .timedOut → k.wphase = .live)
      ∧ (i = .wLive l → t.resp.status ≠ .illegalOp → k.wphase = .recv))
    ∧ (i ≠ .reset → ∀ (n : Nat) (k k' : Link), s.links[n]? = some k → t.links[n]? = some k' → k'.wphase ≠ k.wphase →
        t.resp.status ≠ .notReady ∧ t.resp.status ≠ .illegalOp
        ∧ ∃ l : Byte, l.toNat = n ∧ (i = .wRecv l ∨ i = .popTimeout l ∨ i = .wLive l)))
  ∧ ∀ (s : State) (l : Byte) (c : LinkCfg) (k : Link) (now : Word) (n : Nat), s.HasLink l c k →
    n = (match c.kind with | .fixedA => 18 | .fixedB => s.cfg.bLen | .stream => 1) →
    (k.wphase = .live → workerTurn l now s = agentStep (.worker l .wLive) now s)
    ∧ (k.wphase = .recv → n ≤ k.q.length → workerTurn l now s = agentStep (.worker l .wRecv) now s)
    ∧ (k.wphase = .recv → k.q.length < n → c.popTimeout ≤ (now - k.waitStart).toNat →
        workerTurn l now s = agentStep (.worker l .popTimeout) now s)
    ∧ (k.wphase = .recv → k.q.length < n → (now - k.waitStart).toNat < c.popTimeout → workerTurn l now s = .next s)
    ∧ (s.resp.status ≠ .notReady → ∀ t, workerTurn l now s = .next t → t.resp.status ≠ .notReady)

/-! ### Reset -/

/-- R310, R44, R42, R37: RESET in any state latches the presented configuration, answers OK and leaves every register of
the table at its reset value. (Scratch and receive buffer have none there.) -/
def Obligations.ResetTakesEveryResetValue : Prop :=
  ∀ s : State, ∃ t, exec .reset s = .next t
    ∧ t.resp = { status := .ok, result := .none } ∧ t.cfg = s.cfgIn ∧ t.cfgIn = s.cfgIn
    ∧ t.requests = s.requests ∧ t.now = s.now
    ∧ t.prioMask = 0#32 ∧ t.links.length = s.cfgIn.links.length
    ∧ t.Every fun c k =>
        k.online = false ∧ k.lastAlive = 0#32 ∧ k.q = [] ∧ k.waitStart = 0#32 ∧ k.wphase = .recv
        ∧ k.step = .seekSof ∧ k.index = 0#16 ∧ k.declaredLength = 0#16 ∧ k.lastSeq = 0#8
        ∧ (∀ a, k.records.read a = 0#8)
        ∧ k.ctrl.chOff0 = 0#12 ∧ k.ctrl.chOff1 = 0#12 ∧ k.ctrl.chOff2 = 0#12 ∧ k.ctrl.chOff3 = 0#12
        ∧ k.ctrl.wheelRaw = 0#11 ∧ k.ctrl.mouseX = 0#16 ∧ k.ctrl.mouseY = 0#16 ∧ k.ctrl.mouseZ = 0#16
        ∧ k.ctrl.mbtnRaw0 = 0#8 ∧ k.ctrl.mbtnRaw1 = 0#8 ∧ k.ctrl.keyRaw = 0#16
        ∧ k.ctrl.sw.length = (match c.kind with | .fixedA => 2 | .fixedB => 1 | .stream => 0)
        ∧ k.ctrl.btn.length = (match c.kind with | .fixedA => 18 | .fixedB => 18 + s.cfgIn.nFn | .stream => 0)
        ∧ ∀ e ∈ k.ctrl.sw ++ k.ctrl.btn,
            e.rawState = 0#2 ∧ e.stableState = 0#2 ∧ e.event.bits = 0#7 ∧ e.pressTime = 0#32
            ∧ e.releaseTime = 0#32 ∧ e.holdTime = 0#32 ∧ e.changeTime = 0#32 ∧ e.repeatCount = 0#8
            ∧ e.pending = false ∧ e.holdStart = 0#32

/-- R44, R313: the machine right after reset, whose configuration REFCFG is the model's choice (log 3), meets every invariant
stated below, and that configuration is well formed. -/
def Obligations.ResetStateMeetsTheInvariants : Prop :=
  State.reset.Shaped ∧ State.reset.QueuesBounded ∧ State.reset.CursorsOk ∧ State.reset.EntriesOk
    ∧ State.reset.SpacesOk ∧ State.reset.MaskOwned ∧ State.reset.FlagsAgree
    ∧ State.reset.cfg.wf = true ∧ State.reset.cfgIn.wf = true

/-! ### Byte Channel -/

/-- R131: PUSH appends the whole burst if it fits, and otherwise changes nothing. Its word and its issuer are those the
rule names. -/
def Obligations.PushTakesTheWholeBurstOrNothing : Prop :=
  ∀ (s : State) (l : Byte) (c : LinkCfg) (k : Link) (bytes : List Byte), s.HasLink l c k →
    encode (.push l bytes) = (0x10#8 ++ (l ++ BitVec.ofNat 16 bytes.length), bytes)
    ∧ issuer (.push l bytes) = .interrupt
    ∧ (k.q.length + bytes.length ≤ c.fifoCap → exec (.push l bytes) s =
      .next { s with links := s.links.set l.toNat { k with q := k.q ++ bytes }
                     resp := { status := .ok, result := .none } })
    ∧ (c.fifoCap < k.q.length + bytes.length → exec (.push l bytes) s =
      .next { s with resp := { status := .dropFull, result := .none } })

/-- R132: POP removes and returns the `POP_N(l)` oldest bytes, or answers NOT_READY and changes nothing. Its word and
its issuer are those the rule names. -/
def Obligations.PopReturnsTheOldestBytes : Prop :=
  ∀ (s : State) (l : Byte) (c : LinkCfg) (k : Link) (n : Nat), s.HasLink l c k →
    n = (match c.kind with | .fixedA => 18 | .fixedB => s.cfg.bLen | .stream => 1) →
    encode (.pop l) = (0x11#8 ++ (l ++ 0#16), []) ∧ issuer (.pop l) = .worker
    ∧ (n ≤ k.q.length → exec (.pop l) s =
      .next { s with links := s.links.set l.toNat { k with q := k.q.drop n }
                     resp := { status := .ok, result := .bytes (k.q.take n) } })
    ∧ (k.q.length < n → exec (.pop l) s = .next { s with resp := { status := .notReady, result := .none } })

/-- R133: POP_TIMEOUT answers TIMED_OUT with too few bytes and the deadline passed, NOT_READY otherwise, and writes no
state. -/
def Obligations.PopTimeoutWaitsForTheDeadline : Prop :=
  ∀ (s : State) (l : Byte) (c : LinkCfg) (k : Link) (n : Nat), s.HasLink l c k →
    n = (match c.kind with | .fixedA => 18 | .fixedB => s.cfg.bLen | .stream => 1) →
    (k.q.length < n → c.popTimeout ≤ (s.now - k.waitStart).toNat → exec (.popTimeout l) s =
      .next { s with resp := { status := .timedOut, result := .none } })
    ∧ (n ≤ k.q.length ∨ (s.now - k.waitStart).toNat < c.popTimeout → exec (.popTimeout l) s =
      .next { s with resp := { status := .notReady, result := .none } })

/-- R135, R136, R29: RX stores the burst in the receive buffer, then makes the cheap checks, then arbitration, then pushes
the whole burst; the first failure gives the status and nothing is enqueued. That the buffer keeps its bytes above
a shorter burst is the model's choice, and what it holds after a burst longer than the buffer is free (both log 5). -/
def Obligations.RxChecksThenAdmitsThenPushes : Prop :=
  ∀ (s : State) (l : Byte) (c : LinkCfg) (k : Link) (burst : List Byte) (size : Nat) (isCheap admitted isFit : Prop),
    s.HasLink l c k →
    size = (match c.kind with | .fixedA => 18 | .fixedB => s.cfg.bLen | .stream => 256) →
    (isCheap ↔ match c.kind with
      | .fixedA => burst.length = 18
      | .fixedB => burst.length = s.cfg.bLen ∧ byteAt burst 0 = s.cfg.magic0 ∧ byteAt burst 1 = s.cfg.magic1
      | .stream => 1 ≤ burst.length ∧ burst.length ≤ 256) →
    (admitted ↔ ∀ p q : Prio, c.prio = some p → q < p → s.prioMask.getLsbD q.val = false) →
    (isFit ↔ k.q.length + burst.length ≤ c.fifoCap) →
    ∃ (buf : Mem) (st : Status) (d : Nat),
      exec (.rx l burst) s = .next { s with
        links := s.links.set l.toNat { k with rxbuf := buf, q := if st = .ok then k.q ++ burst else k.q }
        resp := { status := st, result := .none }
        draws := d }
      ∧ (¬ isCheap → st = .dropCheap)
      ∧ (isCheap → ¬ admitted → st = .dropArb)
      ∧ (isCheap → admitted → ¬ isFit → st = .dropFull)
      ∧ (isCheap → admitted → isFit → st = .ok)
      ∧ (burst.length ≤ size → k.rxbuf.wf = true → ∀ n, (h : n < burst.length) → buf.read n = burst[n])
      ∧ (burst.length ≤ size → ∀ a, burst.length ≤ a → buf.read a = k.rxbuf.read a)
      ∧ (∀ a, size ≤ a → buf.read a = k.rxbuf.read a)
      ∧ (burst.length ≤ size → d = s.draws)

/-- R137: over any sequence of PUSH and POP on a link, what left and what is still queued is what was queued and what
entered, in order; and the bound is kept. -/
def Obligations.ByteChannelConservesBytes : Prop :=
  ∀ (ops : List ChannelOp) (s : State) (l : Byte) (c : LinkCfg) (k : Link), s.HasLink l c k →
    ∃ ins outs t k', runChannel l ops s = some (ins, outs, t) ∧ t.HasLink l c k'
      ∧ outs ++ k'.q = k.q ++ ins ∧ (k.q.length ≤ c.fifoCap → k'.q.length ≤ c.fifoCap)

/-- R26, R296: only PUSH and RX append to a FIFO, only POP and W_RECV remove from one, and nothing else touches it. -/
def Obligations.QueuesGrowByPushAndShrinkByPop : Prop :=
  ∀ (i : Instr) (s t : State) (n : Nat) (k k' : Link), i ≠ .reset → exec i s = .next t →
    s.links[n]? = some k → t.links[n]? = some k' →
    ∃ m bytes, k'.q = k.q.drop m ++ bytes
      ∧ (m ≠ 0 → ∃ l, l.toNat = n ∧ (i = .pop l ∨ i = .wRecv l))
      ∧ (bytes ≠ [] → ∃ l, l.toNat = n ∧ (i = .push l bytes ∨ i = .rx l bytes))

/-! ### Arbiter and liveness -/

/-- R151: ADMIT tests the bits strictly below `p` and nothing else; `none` is always admitted; no state changes. Its
word and its issuer are those the rule names. -/
def Obligations.AdmitTestsStrictlyLowerBits : Prop :=
  ∀ s : State, encode (.admitPrio none) = (0x200000FF#32, [])
    ∧ exec (.admitPrio none) s = .next { s with resp := { status := .ok, result := .bit true } }
    ∧ ∀ p : Prio, encode (.admitPrio (some p)) = (0x20#8 ++ (0#8 ++ (0#8 ++ BitVec.ofNat 8 p.val)), [])
      ∧ issuer (.admitPrio (some p)) = .interrupt
      ∧ ∃ b, exec (.admitPrio (some p)) s = .next { s with resp := { status := .ok, result := .bit b } }
        ∧ (b = true ↔ ∀ q : Prio, q < p → s.prioMask.getLsbD q.val = false)

/-- R152: MARK_ALIVE sets the flag, the time and the link's own bit, and no other bit. -/
def Obligations.MarkAliveSetsFlagTimeAndOwnBit : Prop :=
  ∀ (s : State) (l : Byte) (c : LinkCfg) (k : Link), s.HasLink l c k →
    ∃ m, exec (.markAlive l) s =
        .next { s with links := s.links.set l.toNat { k with online := true, lastAlive := s.now }
                       prioMask := m, resp := { status := .ok, result := .none } }
      ∧ ∀ q : Prio, m.getLsbD q.val = true ↔ s.prioMask.getLsbD q.val = true ∨ c.prio = some q

/-- R154: MARK_TIMEOUT clears the flag and the link's own bit, and changes nothing else. Its word and its issuer are
those the rule names. -/
def Obligations.MarkTimeoutClearsFlagAndOwnBit : Prop :=
  ∀ (s : State) (l : Byte) (c : LinkCfg) (k : Link), s.HasLink l c k →
    encode (.markTimeout l) = (0x23#8 ++ (l ++ 0#16), []) ∧ issuer (.markTimeout l) = .worker
    ∧ ∃ m, exec (.markTimeout l) s =
        .next { s with links := s.links.set l.toNat { k with online := false }
                       prioMask := m, resp := { status := .ok, result := .none } }
      ∧ ∀ q : Prio, m.getLsbD q.val = true ↔ s.prioMask.getLsbD q.val = true ∧ c.prio ≠ some q

/-- R153: LIVE_CHECK performs MARK_TIMEOUT and answers LIVE_LOST exactly when the elapsed time is strictly greater than
the timeout, and otherwise changes nothing. Its word and its issuer are those the rule names. -/
def Obligations.LiveCheckIsStrict : Prop :=
  ∀ (s : State) (l : Byte) (c : LinkCfg) (k : Link), s.HasLink l c k →
    encode (.liveCheck l) = (0x22#8 ++ (l ++ 0#16), []) ∧ issuer (.liveCheck l) = .worker
    ∧ ((s.now - k.lastAlive).toNat ≤ c.liveTimeout → exec (.liveCheck l) s =
      .next { s with resp := { status := .ok, result := .none } })
    ∧ (c.liveTimeout < (s.now - k.lastAlive).toNat → ∃ m, exec (.liveCheck l) s =
        .next { s with links := s.links.set l.toNat { k with online := false }
                       prioMask := m, resp := { status := .liveLost, result := .none } }
      ∧ ∀ q : Prio, m.getLsbD q.val = true ↔ s.prioMask.getLsbD q.val = true ∧ c.prio ≠ some q)

/-- R156: ACTIVE_SRC returns the least set bit, none for an empty mask, and changes nothing. Its word and its issuer
are those the rule names. -/
def Obligations.ActiveSrcIsTheLeastSetBit : Prop :=
  ∀ s : State, encode .activeSrc = (0x24000000#32, []) ∧ issuer .activeSrc = .consumer
    ∧ ∃ r, exec .activeSrc s = .next { s with resp := { status := .ok, result := .source r } }
    ∧ (r = none ↔ s.prioMask = 0#32)
    ∧ ∀ p : Prio, r = some p ↔ s.prioMask.getLsbD p.val = true ∧ ∀ q : Prio, q < p → s.prioMask.getLsbD q.val = false

/-- R157: while a lower index has its bit set, no byte of a link is admitted: RX drops the burst and the FIFO is what it
was. -/
def Obligations.LiveHigherPriorityShutsOutRx : Prop :=
  ∀ (s : State) (l : Byte) (c : LinkCfg) (k : Link) (p q : Prio) (burst : List Byte), s.HasLink l c k →
    c.prio = some p → q < p → s.prioMask.getLsbD q.val = true →
    ∃ t k', exec (.rx l burst) s = .next t ∧ t.HasLink l c k' ∧ k'.q = k.q
      ∧ (t.resp.status = .dropArb ∨ t.resp.status = .dropCheap)

/-! ### Synchronizer -/

/-- R172: SEEK_SOF discards every byte but 0xA5, which starts a frame at offset 0. -/
def Obligations.SeekSofWaitsForTheSentinel : Prop :=
  ∀ (s : State) (l b : Byte) (c : LinkCfg) (k : Link), s.HasLink l c k → c.kind = .stream → k.step = .seekSof →
    k.index = 0#16 →
    (b ≠ 0xA5#8 → exec (.syncByte l b) s = .next { s with resp := { status := .syncDiscard, result := .none } })
    ∧ (b = 0xA5#8 → exec (.syncByte l b) s =
      .next { s with
        links := s.links.set l.toNat { k with scratch := k.scratch.write 0 0xA5#8, index := 1#16, step := .lenLow }
        resp := { status := .ok, result := .none } })

/-- R173, R174: the two length bytes, low byte first, and the length check: a length above 247 resets the cursor. -/
def Obligations.LengthBytesAreCheckedAtTheHighByte : Prop :=
  ∀ (s : State) (l b : Byte) (c : LinkCfg) (k : Link), s.HasLink l c k → c.kind = .stream →
    (k.step = .lenLow → k.index = 1#16 → exec (.syncByte l b) s =
      .next { s with
        links := s.links.set l.toNat
          { k with scratch := k.scratch.write 1 b, index := 2#16
                   declaredLength := BitVec.ofNat 16 b.toNat, step := .lenHigh }
        resp := { status := .ok, result := .none } })
    ∧ (k.step = .lenHigh → k.index = 2#16 → ∀ low : Byte, k.declaredLength = BitVec.ofNat 16 low.toNat →
      (low.toNat + 256 * b.toNat ≤ 247 → exec (.syncByte l b) s =
        .next { s with
          links := s.links.set l.toNat
            { k with scratch := k.scratch.write 2 b, index := 3#16
                     declaredLength := BitVec.ofNat 16 (low.toNat + 256 * b.toNat), step := .seq }
          resp := { status := .ok, result := .none } })
      ∧ (247 < low.toNat + 256 * b.toNat → exec (.syncByte l b) s =
        .next { s with
          links := s.links.set l.toNat
            { k with scratch := k.scratch.write 2 b, index := 0#16, declaredLength := 0#16, step := .seekSof }
          resp := { status := .resyncLen, result := .none } }))

/-- R175, R176: the sequence byte is accepted whatever it is; the header byte is compared with `crc8` of the four bytes
before it. -/
def Obligations.SequenceThenHeaderCrc : Prop :=
  ∀ (s : State) (l b : Byte) (c : LinkCfg) (k : Link), s.HasLink l c k → c.kind = .stream →
    (k.step = .seq → k.index = 3#16 → exec (.syncByte l b) s =
      .next { s with
        links := s.links.set l.toNat { k with scratch := k.scratch.write 3 b, index := 4#16, step := .headerCrc8 }
        resp := { status := .ok, result := .none } })
    ∧ (k.step = .headerCrc8 → k.index = 4#16 →
      (crc8 s.cfg [k.scratch.read 0, k.scratch.read 1, k.scratch.read 2, k.scratch.read 3] = b →
        exec (.syncByte l b) s =
        .next { s with
          links := s.links.set l.toNat { k with scratch := k.scratch.write 4 b, index := 5#16, step := .bodyCrc16 }
          resp := { status := .ok, result := .none } })
      ∧ (crc8 s.cfg [k.scratch.read 0, k.scratch.read 1, k.scratch.read 2, k.scratch.read 3] ≠ b →
        exec (.syncByte l b) s =
        .next { s with
          links := s.links.set l.toNat
            { k with scratch := k.scratch.write 4 b, index := 0#16, declaredLength := 0#16, step := .seekSof }
          resp := { status := .resyncCrc8, result := .none } }))

/-- R177: a body byte before the last is stored at `index`, which advances; nothing else changes. -/
def Obligations.BodyBytesAccumulate : Prop :=
  ∀ (s : State) (l b : Byte) (c : LinkCfg) (k : Link), s.HasLink l c k → c.kind = .stream → k.step = .bodyCrc16 →
    k.index.toNat < 256 → k.index.toNat + 1 < k.declaredLength.toNat + 9 →
    exec (.syncByte l b) s =
      .next { s with
        links := s.links.set l.toNat
          { k with scratch := k.scratch.write k.index.toNat b, index := BitVec.ofNat 16 (k.index.toNat + 1) }
        resp := { status := .ok, result := .none } }

/-- R177, R178, R182: the last byte of a frame. `bytes` are the frame's bytes before its CRC-16 (from `scratch`), `lo` and
`b` the CRC-16, `id` the identifier. A mismatch changes the cursor alone; a valid frame writes `last_seq` and calls
MARK_ALIVE; an enabled identifier gets `min(L, REC_SIZE)` payload bytes, and no other byte of any record changes. -/
def Obligations.LastByteEndsTheFrame : Prop :=
  ∀ (s : State) (l b : Byte) (c : LinkCfg) (k : Link) (len : Nat) (id : Half) (lo : Byte) (bytes : List Byte),
    s.HasLink l c k → c.kind = .stream → k.step = .bodyCrc16 → k.scratch.wf = true →
    k.declaredLength.toNat = len → len ≤ 247 → k.index.toNat = len + 8 →
    bytes.length = len + 7 → (∀ n, (h : n < bytes.length) → bytes[n] = k.scratch.read n) →
    lo = k.scratch.read (len + 7) → id = le16 (k.scratch.read 5) (k.scratch.read 6) →
    (crc16 s.cfg bytes ≠ le16 lo b → exec (.syncByte l b) s =
      .next { s with
        links := s.links.set l.toNat
          { k with scratch := k.scratch.write (len + 8) b, index := 0#16, declaredLength := 0#16, step := .seekSof }
        resp := { status := .resyncCrc16, result := .none } })
    ∧ (crc16 s.cfg bytes = le16 lo b → ∃ (records : Mem) (st : Status) (m : Word),
      exec (.syncByte l b) s =
        .next { s with
          links := s.links.set l.toNat
            { k with scratch := k.scratch.write (len + 8) b, index := 0#16, declaredLength := 0#16, step := .seekSof
                     lastSeq := k.scratch.read 3, records := records, online := true, lastAlive := s.now }
          prioMask := m
          resp := { status := st, result := .none } }
      ∧ (∀ q : Prio, m.getLsbD q.val = true ↔ s.prioMask.getLsbD q.val = true ∨ c.prio = some q)
      ∧ (enabledSize s.cfg id = none → st = .frameUnsub ∧ records = k.records)
      ∧ (∀ size, enabledSize s.cfg id = some size → st = .frameOk
        ∧ (k.records.wf = true → ∀ n, n < min len size → records.read (recordKey id n) = k.scratch.read (7 + n))
        ∧ (∀ n, min len size ≤ n → records.read (recordKey id n) = k.records.read (recordKey id n))
        ∧ (∀ other n, other ≠ id → records.read (recordKey other n) = k.records.read (recordKey other n))))

/-- R179: every transition of `step`, complete, with its condition on the byte and its status; SYNC_BYTE completes in every
state whose cursor is as R31 and R32 say and whose scratch buffer is canonical. `isHeader` is the CRC-8 match of R176, `isBody`
the CRC-16 match of R177 on the last byte, `id` the frame's identifier. -/
def Obligations.SyncTransitionsAreTheTable : Prop :=
  ∀ (s : State) (l b : Byte) (c : LinkCfg) (k : Link) (len : Nat) (id : Half) (isHeader isBody : Prop), s.HasLink l c k →
    c.kind = .stream → cursorOk k → k.scratch.wf = true → len = k.declaredLength.toNat →
    id = le16 (k.scratch.read 5) (k.scratch.read 6) →
    (isHeader ↔ crc8 s.cfg [k.scratch.read 0, k.scratch.read 1, k.scratch.read 2, k.scratch.read 3] = b) →
    (isBody ↔ crc16 s.cfg (k.scratch.readAt flatKey 0 (len + 7)) = le16 (k.scratch.read (len + 7)) b) →
    ∃ t k', exec (.syncByte l b) s = .next t ∧ t.HasLink l c k' ∧
      ((k.step = .seekSof ∧ b ≠ 0xA5#8 ∧ k'.step = .seekSof ∧ t.resp.status = .syncDiscard)
      ∨ (k.step = .seekSof ∧ b = 0xA5#8 ∧ k'.step = .lenLow ∧ t.resp.status = .ok)
      ∨ (k.step = .lenLow ∧ k'.step = .lenHigh ∧ t.resp.status = .ok)
      ∨ (k.step = .lenHigh ∧ len + 256 * b.toNat ≤ 247 ∧ k'.step = .seq ∧ t.resp.status = .ok)
      ∨ (k.step = .lenHigh ∧ 247 < len + 256 * b.toNat ∧ k'.step = .seekSof ∧ t.resp.status = .resyncLen)
      ∨ (k.step = .seq ∧ k'.step = .headerCrc8 ∧ t.resp.status = .ok)
      ∨ (k.step = .headerCrc8 ∧ isHeader ∧ k'.step = .bodyCrc16 ∧ t.resp.status = .ok)
      ∨ (k.step = .headerCrc8 ∧ ¬ isHeader ∧ k'.step = .seekSof ∧ t.resp.status = .resyncCrc8)
      ∨ (k.step = .bodyCrc16 ∧ k.index.toNat + 1 < len + 9 ∧ k'.step = .bodyCrc16 ∧ t.resp.status = .ok)
      ∨ (k.step = .bodyCrc16 ∧ k.index.toNat + 1 = len + 9 ∧ isBody ∧ (enabledSize s.cfg id).isSome = true
          ∧ k'.step = .seekSof ∧ t.resp.status = .frameOk)
      ∨ (k.step = .bodyCrc16 ∧ k.index.toNat + 1 = len + 9 ∧ isBody ∧ enabledSize s.cfg id = none
          ∧ k'.step = .seekSof ∧ t.resp.status = .frameUnsub)
      ∨ (k.step = .bodyCrc16 ∧ k.index.toNat + 1 = len + 9 ∧ ¬ isBody ∧ k'.step = .seekSof
          ∧ t.resp.status = .resyncCrc16))

/-- The model's choice (log 7) where R60 and R69 give no effect: storing past the end of the scratch buffer, which no run
reaches, is the fault `scratchOutOfSpace`. -/
def Obligations.StoringPastScratchFaults : Prop :=
  ∀ (s : State) (l b : Byte) (c : LinkCfg) (k : Link), s.HasLink l c k → c.kind = .stream → 256 ≤ k.index.toNat →
    k.step ≠ .seekSof ∨ b = 0xA5#8 → exec (.syncByte l b) s = .fault .scratchOutOfSpace

/-- R69, R280: every step completes, in every state whose cursors are as R31 and R32 say. -/
def Obligations.EveryStepCompletesWithSoundCursors : Prop :=
  ∀ s : State, s.CursorsOk → ∃ t, step s = .next t

/-- R178, R182, R284, R285: no operation but RESET changes a record unless it is a SYNC_BYTE or W_RECV of that link that
answers FRAME_OK; and then, from a cursor as R31 and R32 say, a byte changes only in the record of the frame's own identifier,
and only below `min(declared_length, REC_SIZE)`. -/
def Obligations.RecordsChangeOnlyByDispatch : Prop :=
  ∀ (i : Instr) (s t : State) (n : Nat) (k k' : Link), i ≠ .reset → exec i s = .next t →
    s.links[n]? = some k → t.links[n]? = some k' →
    (t.resp.status ≠ .frameOk → k'.records = k.records)
    ∧ (k'.records ≠ k.records → ∃ l : Byte, l.toNat = n ∧ (i = .wRecv l ∨ ∃ b, i = .syncByte l b))
    ∧ (cursorOk k → ∀ (id : Half) (j : Nat),
        k'.records.read (recordKey id j) ≠ k.records.read (recordKey id j) →
        id = k.cmdId ∧ ∃ size, enabledSize s.cfg id = some size ∧ j < min k.declaredLength.toNat size)

/-! ### Fixed frames and CRC -/

/-- R101, R208: the layout of protocol A, every field as a slice of the little-endian integer of the frame. -/
def Obligations.ProtocolAFieldsAreSlices : Prop :=
  ∀ f : List Byte, f.length = 18 →
    (extractA f).ch0 = bitsLE f 0 11 ∧ (extractA f).ch1 = bitsLE f 11 11 ∧ (extractA f).ch2 = bitsLE f 22 11
    ∧ (extractA f).ch3 = bitsLE f 33 11 ∧ (extractA f).sw0 = bitsLE f 44 2 ∧ (extractA f).sw1 = bitsLE f 46 2
    ∧ (extractA f).mouseX = bitsLE f 48 16 ∧ (extractA f).mouseY = bitsLE f 64 16
    ∧ (extractA f).mouseZ = bitsLE f 80 16 ∧ (extractA f).mbtn0 = bitsLE f 96 8 ∧ (extractA f).mbtn1 = bitsLE f 104 8
    ∧ (extractA f).keys = bitsLE f 112 16 ∧ (extractA f).wheel = bitsLE f 128 11

/-- R102, R209: the layout of protocol B with `B_LEN` = 22, every field as a slice of the frame (the 64-bit field starts at
bit 16). -/
def Obligations.ProtocolBFieldsAreSlices : Prop :=
  ∀ (cfg : Config) (f : List Byte), cfg.bLen = 22 → f.length = 22 →
    (extractB cfg f).ch0 = bitsLE f 16 11 ∧ (extractB cfg f).ch1 = bitsLE f 27 11
    ∧ (extractB cfg f).ch2 = bitsLE f 38 11 ∧ (extractB cfg f).ch3 = bitsLE f 49 11
    ∧ (extractB cfg f).sw0 = bitsLE f 60 2 ∧ (extractB cfg f).fn = bitsLE f 62 18
    ∧ (extractB cfg f).mouseX = bitsLE f 80 16 ∧ (extractB cfg f).mouseY = bitsLE f 96 16
    ∧ (extractB cfg f).mouseZ = bitsLE f 112 16 ∧ (extractB cfg f).mbtn0 = bitsLE f 128 8
    ∧ (extractB cfg f).mbtn1 = bitsLE f 136 8 ∧ (extractB cfg f).keys = bitsLE f 144 16

/-- R106, R206: the stored offset is exactly the channel minus 1024, and the normalized value is its exact quotient by
`CH_HALF`, 0 at mid-scale. -/
def Obligations.ChannelOffsetIsExact : Prop :=
  ∀ (cfg : Config) (ch : BitVec 11),
    (chOffset ch).toInt = (ch.toNat : Int) - 1024
    ∧ normChannel cfg (chOffset ch) = ((ch.toNat : Rat) - 1024) / (cfg.chHalf : Rat)
    ∧ (ch.toNat = 1024 → normChannel cfg (chOffset ch) = 0)

/-- R203, R205, R210: VALIDATE_A discards a frame of the wrong length or with a channel out of range, with no state change;
otherwise every scalar comes from the frame, every entry is evaluated once with the same `now`, and the link is alive. -/
def Obligations.ValidateADecodesOrDiscards : Prop :=
  ∀ (s : State) (l : Byte) (c : LinkCfg) (k : Link) (f : List Byte) (x : Fields), s.HasLink l c k → c.kind = .fixedA →
    x = extractA f →
    (f.length ≠ 18 → exec (.validateA l f) s = .next { s with resp := { status := .badLen, result := .none } })
    ∧ (f.length = 18 → (∃ ch ∈ [x.ch0, x.ch1, x.ch2, x.ch3], ch.toNat < s.cfg.chMin ∨ s.cfg.chMax < ch.toNat) →
      exec (.validateA l f) s = .next { s with resp := { status := .badRange, result := .none } })
    ∧ (f.length = 18 → (∀ ch ∈ [x.ch0, x.ch1, x.ch2, x.ch3], s.cfg.chMin ≤ ch.toNat ∧ ch.toNat ≤ s.cfg.chMax) →
      ∃ (d : Ctrl) (m : Word), exec (.validateA l f) s =
          .next { s with links := s.links.set l.toNat { k with ctrl := d, online := true, lastAlive := s.now }
                         prioMask := m, resp := { status := .ok, result := .none } }
        ∧ (∀ q : Prio, m.getLsbD q.val = true ↔ s.prioMask.getLsbD q.val = true ∨ c.prio = some q)
        ∧ d.chOff0 = chOffset x.ch0 ∧ d.chOff1 = chOffset x.ch1 ∧ d.chOff2 = chOffset x.ch2
        ∧ d.chOff3 = chOffset x.ch3 ∧ d.wheelRaw = x.wheel
        ∧ d.mouseX = x.mouseX ∧ d.mouseY = x.mouseY ∧ d.mouseZ = x.mouseZ
        ∧ d.mbtnRaw0 = x.mbtn0 ∧ d.mbtnRaw1 = x.mbtn1 ∧ d.keyRaw = x.keys
        ∧ d.sw.length = k.ctrl.sw.length ∧ d.btn.length = k.ctrl.btn.length
        ∧ d.sw[0]? = (k.ctrl.sw[0]?).map (evalSwitch s.cfg s.now x.sw0)
        ∧ d.sw[1]? = (k.ctrl.sw[1]?).map (evalSwitch s.cfg s.now x.sw1)
        ∧ (∀ j, j < 16 → d.btn[j]? = (k.ctrl.btn[j]?).map (evalButton s.cfg s.now (x.keys.getLsbD j)))
        ∧ d.btn[16]? = (k.ctrl.btn[16]?).map (evalButton s.cfg s.now (x.mbtn0 != 0#8))
        ∧ d.btn[17]? = (k.ctrl.btn[17]?).map (evalButton s.cfg s.now (x.mbtn1 != 0#8)))

/-- R204, R205, R210: VALIDATE_B checks length, then CRC-16, then range, and discards with no state change; otherwise as
VALIDATE_A, with the gear, the function buttons and no wheel. -/
def Obligations.ValidateBDecodesOrDiscards : Prop :=
  ∀ (s : State) (l : Byte) (c : LinkCfg) (k : Link) (f : List Byte) (x : Fields) (isGood : Bool), s.HasLink l c k →
    c.kind = .fixedB → x = extractB s.cfg f → isGood = crc16Verified s.cfg f →
    (f.length ≠ s.cfg.bLen → exec (.validateB l f) s = .next { s with resp := { status := .badLen, result := .none } })
    ∧ (f.length = s.cfg.bLen → isGood = false →
      exec (.validateB l f) s = .next { s with resp := { status := .badCrc16, result := .none } })
    ∧ (f.length = s.cfg.bLen → isGood = true →
      (∃ ch ∈ [x.ch0, x.ch1, x.ch2, x.ch3], ch.toNat < s.cfg.chMin ∨ s.cfg.chMax < ch.toNat) →
      exec (.validateB l f) s = .next { s with resp := { status := .badRange, result := .none } })
    ∧ (f.length = s.cfg.bLen → isGood = true →
      (∀ ch ∈ [x.ch0, x.ch1, x.ch2, x.ch3], s.cfg.chMin ≤ ch.toNat ∧ ch.toNat ≤ s.cfg.chMax) →
      ∃ (d : Ctrl) (m : Word), exec (.validateB l f) s =
          .next { s with links := s.links.set l.toNat { k with ctrl := d, online := true, lastAlive := s.now }
                         prioMask := m, resp := { status := .ok, result := .none } }
        ∧ (∀ q : Prio, m.getLsbD q.val = true ↔ s.prioMask.getLsbD q.val = true ∨ c.prio = some q)
        ∧ d.chOff0 = chOffset x.ch0 ∧ d.chOff1 = chOffset x.ch1 ∧ d.chOff2 = chOffset x.ch2
        ∧ d.chOff3 = chOffset x.ch3 ∧ d.wheelRaw = k.ctrl.wheelRaw
        ∧ d.mouseX = x.mouseX ∧ d.mouseY = x.mouseY ∧ d.mouseZ = x.mouseZ
        ∧ d.mbtnRaw0 = x.mbtn0 ∧ d.mbtnRaw1 = x.mbtn1 ∧ d.keyRaw = x.keys
        ∧ d.sw.length = k.ctrl.sw.length ∧ d.btn.length = k.ctrl.btn.length
        ∧ d.sw[0]? = (k.ctrl.sw[0]?).map (evalSwitch s.cfg s.now x.sw0)
        ∧ (∀ j, j < 16 → d.btn[j]? = (k.ctrl.btn[j]?).map (evalButton s.cfg s.now (x.keys.getLsbD j)))
        ∧ d.btn[16]? = (k.ctrl.btn[16]?).map (evalButton s.cfg s.now (x.mbtn0 != 0#8))
        ∧ d.btn[17]? = (k.ctrl.btn[17]?).map (evalButton s.cfg s.now (x.mbtn1 != 0#8))
        ∧ (∀ j, j < s.cfg.nFn → d.btn[18 + j]? = (k.ctrl.btn[18 + j]?).map (evalButton s.cfg s.now (x.fn.getLsbD j))))

/-- R211, R284: a VALIDATE that does not answer OK changes nothing, and W_RECV on a radio link that does not answer OK
changes nothing but the FIFO. -/
def Obligations.FailedValidationChangesNothing : Prop :=
  ∀ (s t : State) (l : Byte) (f : List Byte), t.resp.status ≠ .ok →
    (exec (.validateA l f) s = .next t ∨ exec (.validateB l f) s = .next t →
      { t with resp := s.resp } = s)
    ∧ (∀ c k, s.HasLink l c k → c.kind ≠ .stream → exec (.wRecv l) s = .next t →
      ∃ q, { t with resp := s.resp } = { s with links := s.links.set l.toNat { k with q := q } })

/-- R214: replaying a valid frame, at any later clock value, leaves every scalar field of the store as the first decode
left it. -/
def Obligations.ReplayKeepsScalarFields : Prop :=
  ∀ (s t u : State) (l : Byte) (f : List Byte) (n : Word) (i : Instr) (a b : Link),
    i = .validateA l f ∨ i = .validateB l f →
    exec i s = .next t → t.resp.status = .ok → exec i { t with now := n } = .next u →
    t.links[l.toNat]? = some a → u.links[l.toNat]? = some b →
    u.resp.status = .ok ∧ { b.ctrl with sw := [], btn := [] } = { a.ctrl with sw := [], btn := [] }

/-- R202, R207: the CRC checkers compare the function of the bytes before the trailer with the trailer, and answer 0
for lists without one; no state is read or written. Their words and their issuer are those the rules name. -/
def Obligations.CrcVerifyComparesTheTrailer : Prop :=
  ∀ (s : State) (bs : List Byte) (b0 b1 : Byte),
    encode (.crc8Verify bs) = (0x42#8 ++ (0#8 ++ BitVec.ofNat 16 bs.length), bs) ∧ issuer (.crc8Verify bs) = .any
    ∧ encode (.crc16Verify bs) = (0x43#8 ++ (0#8 ++ BitVec.ofNat 16 bs.length), bs) ∧ issuer (.crc16Verify bs) = .any
    ∧ exec (.crc8Verify []) s = .next { s with resp := { status := .ok, result := .bit false } }
    ∧ exec (.crc8Verify (bs ++ [b0])) s =
      .next { s with resp := { status := .ok, result := .bit (crc8 s.cfg bs == b0) } }
    ∧ exec (.crc16Verify []) s = .next { s with resp := { status := .ok, result := .bit false } }
    ∧ exec (.crc16Verify [b0]) s = .next { s with resp := { status := .ok, result := .bit false } }
    ∧ exec (.crc16Verify (bs ++ [b0, b1])) s =
      .next { s with resp := { status := .ok, result := .bit (crc16 s.cfg bs == le16 b0 b1) } }

/-- R212, R213: the CRC appenders write the function's value after the bytes, low byte first, and what they write
verifies. Their words and their issuer are those the rules name. -/
def Obligations.CrcAppendThenVerify : Prop :=
  ∀ (s : State) (bs : List Byte),
    encode (.crc8Append bs) = (0x44#8 ++ (0#8 ++ BitVec.ofNat 16 bs.length), bs) ∧ issuer (.crc8Append bs) = .any
    ∧ encode (.crc16Append bs) = (0x45#8 ++ (0#8 ++ BitVec.ofNat 16 bs.length), bs) ∧ issuer (.crc16Append bs) = .any
    ∧ (∃ b, b = crc8 s.cfg bs
      ∧ exec (.crc8Append bs) s = .next { s with resp := { status := .ok, result := .bytes (bs ++ [b]) } }
      ∧ exec (.crc8Verify (bs ++ [b])) s = .next { s with resp := { status := .ok, result := .bit true } })
    ∧ ∃ b0 b1, b0 = BitVec.ofNat 8 (crc16 s.cfg bs).toNat ∧ b1 = BitVec.ofNat 8 ((crc16 s.cfg bs).toNat / 256)
      ∧ exec (.crc16Append bs) s = .next { s with resp := { status := .ok, result := .bytes (bs ++ [b0, b1]) } }
      ∧ exec (.crc16Verify (bs ++ [b0, b1])) s = .next { s with resp := { status := .ok, result := .bit true } }

/-! ### Debounce -/

/-- R231: one EVAL_SW of switch entry `e`. `since` is `change_time` after the new code is presented, `y` the entry
after the evaluation. Its word and its issuer are those the rule names. -/
def Obligations.EvalSwReportsAcceptedEdges : Prop :=
  ∀ (s : State) (l e : Byte) (v : BitVec 2) (c : LinkCfg) (k : Link) (x : Entry) (since : Word), s.HasLink l c k →
    e.toNat < switchCount c.kind → k.ctrl.sw[e.toNat]? = some x →
    since = (if v = x.rawState then x.changeTime else s.now) →
    encode (.evalSw l e v) = (0x50#8 ++ (l ++ (e ++ (0#6 ++ v))), []) ∧ issuer (.evalSw l e v) = .worker
    ∧ ∃ y : Entry, exec (.evalSw l e v) s =
        .next { s with
          links := s.links.set l.toNat { k with ctrl := { k.ctrl with sw := k.ctrl.sw.set e.toNat y } }
          resp := { status := .ok, result := .none } }
      ∧ (v ≠ x.stableState → s.cfg.tDebounceSw ≤ (s.now - since).toNat →
          y = { x with
            rawState := v, stableState := v, changeTime := s.now
            event := { kind := .edge, src := x.stableState, dst := v } })
      ∧ (v = x.stableState ∨ (s.now - since).toNat < s.cfg.tDebounceSw →
          y = { x with rawState := v, changeTime := since, event := { kind := .none, src := 0#2, dst := 0#2 } })

/-- R232, R233, R235 to R241: one EVAL_BTN of button entry `j`: the filter, then the first of the six branches. `raw` is the
presented level as a code, `since` is `change_time` after it is presented, `accept` the filter's verdict, `y` the entry
after the evaluation. -/
def Obligations.EvalBtnTakesTheFirstBranch : Prop :=
  ∀ (s : State) (l j : Byte) (v : Bool) (c : LinkCfg) (k : Link) (x : Entry) (raw : BitVec 2) (since : Word)
    (accept inHold : Prop), s.HasLink l c k → j.toNat < buttonCount s.cfg c.kind → k.ctrl.btn[j.toNat]? = some x →
    raw = (if v then 1#2 else 0#2) → since = (if raw = x.rawState then x.changeTime else s.now) →
    (accept ↔ raw ≠ x.stableState ∧ s.cfg.tDebounceBtn ≤ (s.now - since).toNat) → (inHold ↔ x.event.kind = .held) →
    ∃ y : Entry, exec (.evalBtn l j v) s =
        .next { s with
          links := s.links.set l.toNat { k with ctrl := { k.ctrl with btn := k.ctrl.btn.set j.toNat y } }
          resp := { status := .ok, result := .none } }
      ∧ (x.pending = true ∧ s.cfg.tRepeat ≤ (s.now - x.releaseTime).toNat →
          y = { x with rawState := raw, changeTime := since, pending := false
                       event := { kind := .pressed, src := 0#2, dst := 0#2 } })
      ∧ (¬ (x.pending = true ∧ s.cfg.tRepeat ≤ (s.now - x.releaseTime).toNat) →
          (accept → raw = 1#2 →
            y = { x with rawState := raw, changeTime := since, stableState := 1#2, pending := false
                         pressTime := s.now, holdTime := 0#32
                         repeatCount := BitVec.ofNat 8 (if x.pending then min (x.repeatCount.toNat + 1) 255 else 1)
                         event := { kind := .rising, src := 0#2, dst := 1#2 } })
          ∧ (accept → raw = 0#2 → ∀ held : Bool, (held = true ↔ inHold) →
            y = { x with rawState := raw, changeTime := since, stableState := 0#2, releaseTime := s.now
                         pending := !held, event := { kind := .falling, src := 1#2, dst := 0#2 } })
          ∧ (¬ accept → x.stableState = 1#2 → inHold →
            y = { x with rawState := raw, changeTime := since, holdTime := s.now - x.holdStart
                         event := { kind := .held, src := 0#2, dst := 0#2 } })
          ∧ (¬ accept → x.stableState = 1#2 → ¬ inHold → s.cfg.tHold ≤ (s.now - x.pressTime).toNat →
            y = { x with rawState := raw, changeTime := since, holdStart := s.now, holdTime := 0#32
                         event := { kind := .held, src := 0#2, dst := 0#2 } })
          ∧ (¬ accept →
            x.stableState ≠ 1#2 ∨ ¬ inHold ∧ (s.now - x.pressTime).toNat < s.cfg.tHold →
            y = { x with rawState := raw, changeTime := since
                         event := { kind := .none, src := 0#2, dst := 0#2 } }))

/-- R242: the logical states of a button entry, IDLE, DOWN, HOLD and PENDING, and no other transition between them than the
table's, each with its event. -/
def Obligations.ButtonTransitionsAreTheTable : Prop :=
  ∀ (cfg : Config) (now : Word) (v : Bool) (e e' : Entry), buttonOk e → e' = evalButton cfg now v e →
    (e.stableState = 0#2 ∧ e.event.kind ≠ .held ∧ e.pending = false ∧
      ((e'.stableState = 1#2 ∧ e'.pending = false ∧ e'.event.kind = .rising ∧ e'.repeatCount = 1#8)
      ∨ (e'.stableState = 0#2 ∧ e'.pending = false ∧ e'.event.kind = .none)))
    ∨ (e.stableState = 1#2 ∧ e.event.kind ≠ .held ∧ e.pending = false ∧
      ((e'.stableState = 0#2 ∧ e'.pending = true ∧ e'.event.kind = .falling)
      ∨ (e'.stableState = 1#2 ∧ e'.pending = false ∧ e'.event.kind = .held ∧ e'.holdStart = now ∧ e'.holdTime = 0#32)
      ∨ (e'.stableState = 1#2 ∧ e'.pending = false ∧ e'.event.kind = .none)))
    ∨ (e.stableState = 1#2 ∧ e.event.kind = .held ∧ e.pending = false ∧
      ((e'.stableState = 0#2 ∧ e'.pending = false ∧ e'.event.kind = .falling)
      ∨ (e'.stableState = 1#2 ∧ e'.pending = false ∧ e'.event.kind = .held ∧ e'.holdTime = now - e.holdStart)))
    ∨ (e.stableState = 0#2 ∧ e.event.kind ≠ .held ∧ e.pending = true ∧
      ((e'.stableState = 0#2 ∧ e'.pending = false ∧ e'.event.kind = .pressed ∧ e'.repeatCount = e.repeatCount)
      ∨ (e'.stableState = 1#2 ∧ e'.pending = false ∧ e'.event.kind = .rising
          ∧ e'.repeatCount.toNat = min (e.repeatCount.toNat + 1) 255)
      ∨ (e'.stableState = 0#2 ∧ e'.pending = true ∧ e'.event.kind = .none)))

/-- R245, first half: a level that flips for less than the debounce interval is ignored: no edge, no event, nothing
pending. -/
def Obligations.ShortGlitchIsIgnored : Prop :=
  ∀ (cfg : Config) (t1 t2 : Word) (e e1 e2 : Entry), buttonOk e → e.stableState = 0#2 → e.rawState = 0#2 →
    e.pending = false → (t2 - t1).toNat < cfg.tDebounceBtn →
    e1 = evalButton cfg t1 true e → e2 = evalButton cfg t2 false e1 →
    e1.event = Event.idle ∧ e2.event = Event.idle ∧ e1.pending = false ∧ e2.pending = false
      ∧ e1.stableState = 0#2 ∧ e2.stableState = 0#2 ∧ e2.repeatCount = e.repeatCount ∧ e2.pressTime = e.pressTime

/-- R245, second half, R240, R239: a level held at the threshold (or beyond) enters HELD at that evaluation, and once: the
next evaluation continues the same hold. -/
def Obligations.HeldIsEnteredOnce : Prop :=
  ∀ (cfg : Config) (t1 t2 : Word) (e e1 e2 : Entry), buttonOk e → e.stableState = 1#2 → e.rawState = 1#2 →
    e.event.kind ≠ .held → cfg.tHold ≤ (t1 - e.pressTime).toNat →
    e1 = evalButton cfg t1 true e → e2 = evalButton cfg t2 true e1 →
    e1.event.kind = .held ∧ e1.holdStart = t1 ∧ e1.holdTime = 0#32
      ∧ e2.event.kind = .held ∧ e2.holdStart = t1 ∧ e2.holdTime = t2 - t1

/-! ### Worker and consumers -/

/-- R261: W_RECV is POP followed by the link's decoder on what it returned, in one step; NOT_READY changes nothing. On a
stream link whose index is inside the scratch buffer, and on every radio link, it completes. -/
def Obligations.WRecvIsPopThenDecode : Prop :=
  ∀ (s : State) (l : Byte) (c : LinkCfg) (k : Link) (n : Nat), s.HasLink l c k →
    n = (match c.kind with | .fixedA => 18 | .fixedB => s.cfg.bLen | .stream => 1) →
    (k.q.length < n → exec (.wRecv l) s = .next { s with resp := { status := .notReady, result := .none } })
    ∧ (n ≤ k.q.length → (c.kind = .stream → k.index.toNat < 256) → ∃ t u k',
      exec (.pop l) s = .next t ∧ t.resp.result = .bytes (k.q.take n)
      ∧ exec (.wRecv l) s = .next u ∧ u.HasLink l c k' ∧ k'.q = k.q.drop n
      ∧ (c.kind = .fixedA → exec (.validateA l (k.q.take n)) t = .next u)
      ∧ (c.kind = .fixedB → exec (.validateB l (k.q.take n)) t = .next u)
      ∧ (c.kind = .stream → ∀ b, k.q.head? = some b → exec (.syncByte l b) t = .next u))

/-- R264: W_LIVE is LIVE_CHECK and then starts the next wait. -/
def Obligations.WLiveChecksThenRestartsTheWait : Prop :=
  ∀ (s : State) (l : Byte) (c : LinkCfg) (k : Link), s.HasLink l c k →
    ((s.now - k.lastAlive).toNat ≤ c.liveTimeout → exec (.wLive l) s =
      .next { s with links := s.links.set l.toNat { k with waitStart := s.now }
                     resp := { status := .ok, result := .none } })
    ∧ (c.liveTimeout < (s.now - k.lastAlive).toNat → ∃ m, exec (.wLive l) s =
        .next { s with links := s.links.set l.toNat { k with waitStart := s.now, online := false }
                       prioMask := m, resp := { status := .liveLost, result := .none } }
      ∧ ∀ q : Prio, m.getLsbD q.val = true ↔ s.prioMask.getLsbD q.val = true ∧ c.prio ≠ some q)

/-- R270, R271, R272: the consumer reads return the control store, the record's bytes and the flag as they stand, and change
nothing. -/
def Obligations.ConsumerReadsAreSnapshots : Prop :=
  ∀ (s : State) (l : Byte) (c : LinkCfg) (k : Link), s.HasLink l c k →
    exec (.readOnline l) s = .next { s with resp := { status := .ok, result := .bit k.online } }
    ∧ (c.kind ≠ .stream → exec (.readCtrl l) s = .next { s with resp := { status := .ok, result := .ctrl k.ctrl } })
    ∧ (c.kind = .stream → ∀ (id : Half) (size : Nat), recordSize s.cfg id = some size →
      ∃ v : List Byte, exec (.readRec l id) s = .next { s with resp := { status := .ok, result := .bytes v } }
        ∧ v.length = size ∧ ∀ n, n < size → v[n]? = some (k.records.read (recordKey id n)))

/-- R271, U14: the record of an identifier that is sized but not enabled reads as its reset value, in every state whose
spaces are as R35 and R60 say. -/
def Obligations.UnsubscribedRecordReadsZero : Prop :=
  ∀ (s : State) (l : Byte) (c : LinkCfg) (k : Link) (id : Half) (size : Nat), s.SpacesOk → s.HasLink l c k →
    c.kind = .stream → recordSize s.cfg id = some size → enabledSize s.cfg id = none →
    exec (.readRec l id) s =
      .next { s with resp := { status := .ok, result := .bytes (List.replicate size 0#8) } }

/-! ### The whole machine -/

/-- R273, R296: an operation of a consumer, or a CRC operation, writes nothing; nor does a consumer's step, or a step by which
any agent issues a CRC operation, but for the clock sample and the response. -/
def Obligations.ConsumersAndCrcWriteNothing : Prop :=
  (∀ (i : Instr) (s t : State), issuer i = .consumer ∨ issuer i = .any → exec i s = .next t →
    { t with resp := s.resp } = s)
  ∧ ∀ (a : AgentOp) (now : Word) (s t : State), (∃ op, a = .consumer op) ∨ (∃ who op, a = .checksum who op) →
    agentStep a now s = .next t → { t with resp := s.resp, now := s.now } = s

/-- R139, R290, R296: an operation of the interrupt context touches only `q` (it appends) and `rxbuf` of its own link; and a
step of `ISR(l)` touches these of link `l` alone. -/
def Obligations.InterruptTouchesOnlyQueueAndBuffer : Prop :=
  (∀ (i : Instr) (s t : State), issuer i = .interrupt → exec i s = .next t →
    t.prioMask = s.prioMask ∧ t.cfg = s.cfg ∧ t.links.length = s.links.length
    ∧ ∀ (n : Nat) (k k' : Link), s.links[n]? = some k → t.links[n]? = some k' →
      (∃ bytes rxbuf, k' = { k with q := k.q ++ bytes, rxbuf := rxbuf })
      ∧ (i.link?.map BitVec.toNat ≠ some n → k' = k))
  ∧ ∀ (l : Byte) (op : InterruptOp) (now : Word) (s t : State), agentStep (.interrupt l op) now s = .next t →
    t.prioMask = s.prioMask ∧ t.cfg = s.cfg ∧ t.requests = s.requests ∧ t.links.length = s.links.length
    ∧ ∀ (n : Nat) (k k' : Link), s.links[n]? = some k → t.links[n]? = some k' →
      (∃ bytes rxbuf, k' = { k with q := k.q ++ bytes, rxbuf := rxbuf }) ∧ (n ≠ l.toNat → k' = k)

/-- R296, R299: an operation of a worker leaves every other link, every other link's bit and the configuration alone; and a
step of `W(l)` writes no link but `l`, of that link neither the receive buffer nor the FIFO but at its head, and no bit of the
mask but its own. -/
def Obligations.WorkerTouchesOnlyItsOwnLinkAndBit : Prop :=
  (∀ (i : Instr) (s t : State) (l : Byte) (c : LinkCfg), issuer i = .worker → i.link? = some l →
    s.cfg.links[l.toNat]? = some c → exec i s = .next t →
    t.cfg = s.cfg ∧ t.links.length = s.links.length
    ∧ (∀ n : Nat, n ≠ l.toNat → t.links[n]? = s.links[n]?)
    ∧ ∀ q : Prio, c.prio ≠ some q → t.prioMask.getLsbD q.val = s.prioMask.getLsbD q.val)
  ∧ ∀ (l : Byte) (op : WorkerOp) (now : Word) (s t : State), agentStep (.worker l op) now s = .next t →
    t.cfg = s.cfg ∧ t.requests = s.requests ∧ t.links.length = s.links.length
    ∧ (∀ n : Nat, n ≠ l.toNat → t.links[n]? = s.links[n]?)
    ∧ (∀ k k' : Link, s.links[l.toNat]? = some k → t.links[l.toNat]? = some k' →
        k'.rxbuf = k.rxbuf ∧ ∃ m, k'.q = k.q.drop m)
    ∧ ∀ q : Prio, priorityOfLink s.cfg l ≠ some q → t.prioMask.getLsbD q.val = s.prioMask.getLsbD q.val

/-- R77, R310: a step whose request is RESET latches the presented configuration, no other step changes the configuration, and
no step changes what is presented. -/
def Obligations.ConfigurationIsConstantBetweenResets : Prop :=
  ∀ s t : State, step s = .next t →
    t.cfgIn = s.cfgIn
    ∧ ((∃ r rest, s.requests = r :: rest ∧ decode r.word r.data = .ok .reset) → t.cfg = s.cfgIn)
    ∧ ((¬ ∃ r rest, s.requests = r :: rest ∧ decode r.word r.data = .ok .reset) → t.cfg = s.cfg)

/-! ### Invariants of every step -/

/-- R20, R37: every step keeps one link state for each link of the configuration, with its entries. -/
def Obligations.EveryStepKeepsTheShape : Prop :=
  ∀ s t : State, s.Shaped → step s = .next t → t.Shaped

/-- R26, R137: every step keeps each FIFO within its capacity. -/
def Obligations.EveryStepKeepsQueuesBounded : Prop :=
  ∀ s t : State, s.QueuesBounded → step s = .next t → t.QueuesBounded

/-- R31, R32: every step keeps `index` and `declared_length` as `step` fixes them, so that `index` never exceeds the scratch
capacity. -/
def Obligations.EveryStepKeepsCursors : Prop :=
  ∀ s t : State, s.CursorsOk → step s = .next t → t.CursorsOk

/-- R38, R39, R122: every step keeps the entry invariants. -/
def Obligations.EveryStepKeepsEntries : Prop :=
  ∀ s t : State, s.EntriesOk → step s = .next t → t.EntriesOk

/-- R60, R69 and the model's canonical form (log 12): every step keeps every space canonical and inside its bounds, and
records outside the enabled identifiers empty. -/
def Obligations.EveryStepKeepsSpaces : Prop :=
  ∀ s t : State, s.SpacesOk → step s = .next t → t.SpacesOk

/-- R22: every step keeps the bits of no link's index at 0. -/
def Obligations.EveryStepKeepsTheMaskOwned : Prop :=
  ∀ s t : State, s.MaskOwned → step s = .next t → t.MaskOwned

/-- R152, R153, R154 with R313 (a): every step keeps each priority bit equal to its link's online flag. -/
def Obligations.EveryStepKeepsFlagsAgreeing : Prop :=
  ∀ s t : State, s.Shaped → s.cfg.wf = true → s.cfgIn.wf = true → s.FlagsAgree → step s = .next t →
    t.FlagsAgree ∧ t.cfg.wf = true ∧ t.cfgIn.wf = true
end

