-- ==== Sys2Proof/Laws/State.lean ====
section
/-! SUPPORT. One lemma a field for every record update of the model, so that no later proof unfolds an update. -/

namespace Sys2Proof.Machine

/-! ### Updates of the state -/


/-! #### State.respond -/

@[simp] theorem State.respond_prioMask (s : State) (st : Status) (r : Result) :
    (s.respond st r).prioMask = s.prioMask := rfl
@[simp] theorem State.respond_links (s : State) (st : Status) (r : Result) :
    (s.respond st r).links = s.links := rfl
@[simp] theorem State.respond_cfg (s : State) (st : Status) (r : Result) :
    (s.respond st r).cfg = s.cfg := rfl
@[simp] theorem State.respond_cfgIn (s : State) (st : Status) (r : Result) :
    (s.respond st r).cfgIn = s.cfgIn := rfl
@[simp] theorem State.respond_requests (s : State) (st : Status) (r : Result) :
    (s.respond st r).requests = s.requests := rfl
@[simp] theorem State.respond_now (s : State) (st : Status) (r : Result) :
    (s.respond st r).now = s.now := rfl
@[simp] theorem State.respond_resp (s : State) (st : Status) (r : Result) :
    (s.respond st r).resp = { status := st, result := r } := rfl
@[simp] theorem State.respond_draws (s : State) (st : Status) (r : Result) :
    (s.respond st r).draws = s.draws := rfl

/-! #### State.update -/

@[simp] theorem State.update_prioMask (s : State) (l : Byte) (k : Link) (m : Word) (st : Status) (r : Result) :
    (s.update l k m st r).prioMask = m := rfl
@[simp] theorem State.update_links (s : State) (l : Byte) (k : Link) (m : Word) (st : Status) (r : Result) :
    (s.update l k m st r).links = s.links.set l.toNat k := rfl
@[simp] theorem State.update_cfg (s : State) (l : Byte) (k : Link) (m : Word) (st : Status) (r : Result) :
    (s.update l k m st r).cfg = s.cfg := rfl
@[simp] theorem State.update_cfgIn (s : State) (l : Byte) (k : Link) (m : Word) (st : Status) (r : Result) :
    (s.update l k m st r).cfgIn = s.cfgIn := rfl
@[simp] theorem State.update_requests (s : State) (l : Byte) (k : Link) (m : Word) (st : Status) (r : Result) :
    (s.update l k m st r).requests = s.requests := rfl
@[simp] theorem State.update_now (s : State) (l : Byte) (k : Link) (m : Word) (st : Status) (r : Result) :
    (s.update l k m st r).now = s.now := rfl
@[simp] theorem State.update_resp (s : State) (l : Byte) (k : Link) (m : Word) (st : Status) (r : Result) :
    (s.update l k m st r).resp = { status := st, result := r } := rfl
@[simp] theorem State.update_draws (s : State) (l : Byte) (k : Link) (m : Word) (st : Status) (r : Result) :
    (s.update l k m st r).draws = s.draws := rfl

/-! #### State.withPhase -/

@[simp] theorem State.withPhase_prioMask (s : State) (l : Byte) (p : Phase) :
    (s.withPhase l p).prioMask = s.prioMask := rfl
@[simp] theorem State.withPhase_links (s : State) (l : Byte) (p : Phase) :
    (s.withPhase l p).links = s.links.modify l.toNat fun k => { k with wphase := p } := rfl
@[simp] theorem State.withPhase_cfg (s : State) (l : Byte) (p : Phase) :
    (s.withPhase l p).cfg = s.cfg := rfl
@[simp] theorem State.withPhase_cfgIn (s : State) (l : Byte) (p : Phase) :
    (s.withPhase l p).cfgIn = s.cfgIn := rfl
@[simp] theorem State.withPhase_requests (s : State) (l : Byte) (p : Phase) :
    (s.withPhase l p).requests = s.requests := rfl
@[simp] theorem State.withPhase_now (s : State) (l : Byte) (p : Phase) :
    (s.withPhase l p).now = s.now := rfl
@[simp] theorem State.withPhase_resp (s : State) (l : Byte) (p : Phase) :
    (s.withPhase l p).resp = s.resp := rfl
@[simp] theorem State.withPhase_draws (s : State) (l : Byte) (p : Phase) :
    (s.withPhase l p).draws = s.draws := rfl

/-! #### State.present -/

@[simp] theorem State.present_prioMask (s : State) (r : Request) :
    (s.present r).prioMask = s.prioMask := rfl
@[simp] theorem State.present_links (s : State) (r : Request) :
    (s.present r).links = s.links := rfl
@[simp] theorem State.present_cfg (s : State) (r : Request) :
    (s.present r).cfg = s.cfg := rfl
@[simp] theorem State.present_cfgIn (s : State) (r : Request) :
    (s.present r).cfgIn = s.cfgIn := rfl
@[simp] theorem State.present_requests (s : State) (r : Request) :
    (s.present r).requests = r :: s.requests := rfl
@[simp] theorem State.present_now (s : State) (r : Request) :
    (s.present r).now = s.now := rfl
@[simp] theorem State.present_resp (s : State) (r : Request) :
    (s.present r).resp = s.resp := rfl
@[simp] theorem State.present_draws (s : State) (r : Request) :
    (s.present r).draws = s.draws := rfl

/-! #### State.drawFor -/

@[simp] theorem State.drawFor_prioMask (s : State) (n : Nat) (b : List Byte) :
    (s.drawFor n b).prioMask = s.prioMask := rfl
@[simp] theorem State.drawFor_links (s : State) (n : Nat) (b : List Byte) :
    (s.drawFor n b).links = s.links := rfl
@[simp] theorem State.drawFor_cfg (s : State) (n : Nat) (b : List Byte) :
    (s.drawFor n b).cfg = s.cfg := rfl
@[simp] theorem State.drawFor_cfgIn (s : State) (n : Nat) (b : List Byte) :
    (s.drawFor n b).cfgIn = s.cfgIn := rfl
@[simp] theorem State.drawFor_requests (s : State) (n : Nat) (b : List Byte) :
    (s.drawFor n b).requests = s.requests := rfl
@[simp] theorem State.drawFor_now (s : State) (n : Nat) (b : List Byte) :
    (s.drawFor n b).now = s.now := rfl
@[simp] theorem State.drawFor_resp (s : State) (n : Nat) (b : List Byte) :
    (s.drawFor n b).resp = s.resp := rfl
@[simp] theorem State.drawFor_draws (s : State) (n : Nat) (b : List Byte) :
    (s.drawFor n b).draws = if b.length ≤ n then s.draws else s.draws + 1 := rfl

/-! #### State.resetWith -/

@[simp] theorem State.resetWith_prioMask (c d : Config) (rs : List Request) (n : Word) (r : Response) (f : Nat) :
    (State.resetWith c d rs n r f).prioMask = 0#32 := rfl
@[simp] theorem State.resetWith_links (c d : Config) (rs : List Request) (n : Word) (r : Response) (f : Nat) :
    (State.resetWith c d rs n r f).links = c.links.map (Link.reset c) := rfl
@[simp] theorem State.resetWith_cfg (c d : Config) (rs : List Request) (n : Word) (r : Response) (f : Nat) :
    (State.resetWith c d rs n r f).cfg = c := rfl
@[simp] theorem State.resetWith_cfgIn (c d : Config) (rs : List Request) (n : Word) (r : Response) (f : Nat) :
    (State.resetWith c d rs n r f).cfgIn = d := rfl
@[simp] theorem State.resetWith_requests (c d : Config) (rs : List Request) (n : Word) (r : Response) (f : Nat) :
    (State.resetWith c d rs n r f).requests = rs := rfl
@[simp] theorem State.resetWith_now (c d : Config) (rs : List Request) (n : Word) (r : Response) (f : Nat) :
    (State.resetWith c d rs n r f).now = n := rfl
@[simp] theorem State.resetWith_resp (c d : Config) (rs : List Request) (n : Word) (r : Response) (f : Nat) :
    (State.resetWith c d rs n r f).resp = r := rfl
@[simp] theorem State.resetWith_draws (c d : Config) (rs : List Request) (n : Word) (r : Response) (f : Nat) :
    (State.resetWith c d rs n r f).draws = f := rfl

/-! ### Updates of a link -/

/-! #### Link.alive -/

@[simp] theorem Link.alive_q (n : Word) (k : Link) :
    (k.alive n).q = k.q := rfl
@[simp] theorem Link.alive_online (n : Word) (k : Link) :
    (k.alive n).online = true := rfl
@[simp] theorem Link.alive_lastAlive (n : Word) (k : Link) :
    (k.alive n).lastAlive = n := rfl
@[simp] theorem Link.alive_waitStart (n : Word) (k : Link) :
    (k.alive n).waitStart = k.waitStart := rfl
@[simp] theorem Link.alive_wphase (n : Word) (k : Link) :
    (k.alive n).wphase = k.wphase := rfl
@[simp] theorem Link.alive_rxbuf (n : Word) (k : Link) :
    (k.alive n).rxbuf = k.rxbuf := rfl
@[simp] theorem Link.alive_step (n : Word) (k : Link) :
    (k.alive n).step = k.step := rfl
@[simp] theorem Link.alive_index (n : Word) (k : Link) :
    (k.alive n).index = k.index := rfl
@[simp] theorem Link.alive_declaredLength (n : Word) (k : Link) :
    (k.alive n).declaredLength = k.declaredLength := rfl
@[simp] theorem Link.alive_scratch (n : Word) (k : Link) :
    (k.alive n).scratch = k.scratch := rfl
@[simp] theorem Link.alive_lastSeq (n : Word) (k : Link) :
    (k.alive n).lastSeq = k.lastSeq := rfl
@[simp] theorem Link.alive_records (n : Word) (k : Link) :
    (k.alive n).records = k.records := rfl
@[simp] theorem Link.alive_ctrl (n : Word) (k : Link) :
    (k.alive n).ctrl = k.ctrl := rfl

/-! #### Link.dead -/

@[simp] theorem Link.dead_q (k : Link) :
    (k.dead).q = k.q := rfl
@[simp] theorem Link.dead_online (k : Link) :
    (k.dead).online = false := rfl
@[simp] theorem Link.dead_lastAlive (k : Link) :
    (k.dead).lastAlive = k.lastAlive := rfl
@[simp] theorem Link.dead_waitStart (k : Link) :
    (k.dead).waitStart = k.waitStart := rfl
@[simp] theorem Link.dead_wphase (k : Link) :
    (k.dead).wphase = k.wphase := rfl
@[simp] theorem Link.dead_rxbuf (k : Link) :
    (k.dead).rxbuf = k.rxbuf := rfl
@[simp] theorem Link.dead_step (k : Link) :
    (k.dead).step = k.step := rfl
@[simp] theorem Link.dead_index (k : Link) :
    (k.dead).index = k.index := rfl
@[simp] theorem Link.dead_declaredLength (k : Link) :
    (k.dead).declaredLength = k.declaredLength := rfl
@[simp] theorem Link.dead_scratch (k : Link) :
    (k.dead).scratch = k.scratch := rfl
@[simp] theorem Link.dead_lastSeq (k : Link) :
    (k.dead).lastSeq = k.lastSeq := rfl
@[simp] theorem Link.dead_records (k : Link) :
    (k.dead).records = k.records := rfl
@[simp] theorem Link.dead_ctrl (k : Link) :
    (k.dead).ctrl = k.ctrl := rfl

/-! #### Link.enqueue -/

@[simp] theorem Link.enqueue_q (k : Link) (b : List Byte) :
    (k.enqueue b).q = k.q ++ b := rfl
@[simp] theorem Link.enqueue_online (k : Link) (b : List Byte) :
    (k.enqueue b).online = k.online := rfl
@[simp] theorem Link.enqueue_lastAlive (k : Link) (b : List Byte) :
    (k.enqueue b).lastAlive = k.lastAlive := rfl
@[simp] theorem Link.enqueue_waitStart (k : Link) (b : List Byte) :
    (k.enqueue b).waitStart = k.waitStart := rfl
@[simp] theorem Link.enqueue_wphase (k : Link) (b : List Byte) :
    (k.enqueue b).wphase = k.wphase := rfl
@[simp] theorem Link.enqueue_rxbuf (k : Link) (b : List Byte) :
    (k.enqueue b).rxbuf = k.rxbuf := rfl
@[simp] theorem Link.enqueue_step (k : Link) (b : List Byte) :
    (k.enqueue b).step = k.step := rfl
@[simp] theorem Link.enqueue_index (k : Link) (b : List Byte) :
    (k.enqueue b).index = k.index := rfl
@[simp] theorem Link.enqueue_declaredLength (k : Link) (b : List Byte) :
    (k.enqueue b).declaredLength = k.declaredLength := rfl
@[simp] theorem Link.enqueue_scratch (k : Link) (b : List Byte) :
    (k.enqueue b).scratch = k.scratch := rfl
@[simp] theorem Link.enqueue_lastSeq (k : Link) (b : List Byte) :
    (k.enqueue b).lastSeq = k.lastSeq := rfl
@[simp] theorem Link.enqueue_records (k : Link) (b : List Byte) :
    (k.enqueue b).records = k.records := rfl
@[simp] theorem Link.enqueue_ctrl (k : Link) (b : List Byte) :
    (k.enqueue b).ctrl = k.ctrl := rfl

/-! #### Link.dequeue -/

@[simp] theorem Link.dequeue_q (g : Config) (c : LinkCfg) (k : Link) :
    (k.dequeue g c).q = k.q.drop (popCount g c.kind) := rfl
@[simp] theorem Link.dequeue_online (g : Config) (c : LinkCfg) (k : Link) :
    (k.dequeue g c).online = k.online := rfl
@[simp] theorem Link.dequeue_lastAlive (g : Config) (c : LinkCfg) (k : Link) :
    (k.dequeue g c).lastAlive = k.lastAlive := rfl
@[simp] theorem Link.dequeue_waitStart (g : Config) (c : LinkCfg) (k : Link) :
    (k.dequeue g c).waitStart = k.waitStart := rfl
@[simp] theorem Link.dequeue_wphase (g : Config) (c : LinkCfg) (k : Link) :
    (k.dequeue g c).wphase = k.wphase := rfl
@[simp] theorem Link.dequeue_rxbuf (g : Config) (c : LinkCfg) (k : Link) :
    (k.dequeue g c).rxbuf = k.rxbuf := rfl
@[simp] theorem Link.dequeue_step (g : Config) (c : LinkCfg) (k : Link) :
    (k.dequeue g c).step = k.step := rfl
@[simp] theorem Link.dequeue_index (g : Config) (c : LinkCfg) (k : Link) :
    (k.dequeue g c).index = k.index := rfl
@[simp] theorem Link.dequeue_declaredLength (g : Config) (c : LinkCfg) (k : Link) :
    (k.dequeue g c).declaredLength = k.declaredLength := rfl
@[simp] theorem Link.dequeue_scratch (g : Config) (c : LinkCfg) (k : Link) :
    (k.dequeue g c).scratch = k.scratch := rfl
@[simp] theorem Link.dequeue_lastSeq (g : Config) (c : LinkCfg) (k : Link) :
    (k.dequeue g c).lastSeq = k.lastSeq := rfl
@[simp] theorem Link.dequeue_records (g : Config) (c : LinkCfg) (k : Link) :
    (k.dequeue g c).records = k.records := rfl
@[simp] theorem Link.dequeue_ctrl (g : Config) (c : LinkCfg) (k : Link) :
    (k.dequeue g c).ctrl = k.ctrl := rfl

/-! #### Link.receive -/

@[simp] theorem Link.receive_q (n d : Nat) (b : List Byte) (k : Link) :
    (k.receive n d b).q = k.q := rfl
@[simp] theorem Link.receive_online (n d : Nat) (b : List Byte) (k : Link) :
    (k.receive n d b).online = k.online := rfl
@[simp] theorem Link.receive_lastAlive (n d : Nat) (b : List Byte) (k : Link) :
    (k.receive n d b).lastAlive = k.lastAlive := rfl
@[simp] theorem Link.receive_waitStart (n d : Nat) (b : List Byte) (k : Link) :
    (k.receive n d b).waitStart = k.waitStart := rfl
@[simp] theorem Link.receive_wphase (n d : Nat) (b : List Byte) (k : Link) :
    (k.receive n d b).wphase = k.wphase := rfl
@[simp] theorem Link.receive_rxbuf (n d : Nat) (b : List Byte) (k : Link) :
    (k.receive n d b).rxbuf = k.rxbuf.writeAt flatKey 0 (received n d b) := rfl
@[simp] theorem Link.receive_step (n d : Nat) (b : List Byte) (k : Link) :
    (k.receive n d b).step = k.step := rfl
@[simp] theorem Link.receive_index (n d : Nat) (b : List Byte) (k : Link) :
    (k.receive n d b).index = k.index := rfl
@[simp] theorem Link.receive_declaredLength (n d : Nat) (b : List Byte) (k : Link) :
    (k.receive n d b).declaredLength = k.declaredLength := rfl
@[simp] theorem Link.receive_scratch (n d : Nat) (b : List Byte) (k : Link) :
    (k.receive n d b).scratch = k.scratch := rfl
@[simp] theorem Link.receive_lastSeq (n d : Nat) (b : List Byte) (k : Link) :
    (k.receive n d b).lastSeq = k.lastSeq := rfl
@[simp] theorem Link.receive_records (n d : Nat) (b : List Byte) (k : Link) :
    (k.receive n d b).records = k.records := rfl
@[simp] theorem Link.receive_ctrl (n d : Nat) (b : List Byte) (k : Link) :
    (k.receive n d b).ctrl = k.ctrl := rfl

/-! #### Link.cursorReset -/

@[simp] theorem Link.cursorReset_q (k : Link) :
    (k.cursorReset).q = k.q := rfl
@[simp] theorem Link.cursorReset_online (k : Link) :
    (k.cursorReset).online = k.online := rfl
@[simp] theorem Link.cursorReset_lastAlive (k : Link) :
    (k.cursorReset).lastAlive = k.lastAlive := rfl
@[simp] theorem Link.cursorReset_waitStart (k : Link) :
    (k.cursorReset).waitStart = k.waitStart := rfl
@[simp] theorem Link.cursorReset_wphase (k : Link) :
    (k.cursorReset).wphase = k.wphase := rfl
@[simp] theorem Link.cursorReset_rxbuf (k : Link) :
    (k.cursorReset).rxbuf = k.rxbuf := rfl
@[simp] theorem Link.cursorReset_step (k : Link) :
    (k.cursorReset).step = .seekSof := rfl
@[simp] theorem Link.cursorReset_index (k : Link) :
    (k.cursorReset).index = 0#16 := rfl
@[simp] theorem Link.cursorReset_declaredLength (k : Link) :
    (k.cursorReset).declaredLength = 0#16 := rfl
@[simp] theorem Link.cursorReset_scratch (k : Link) :
    (k.cursorReset).scratch = k.scratch := rfl
@[simp] theorem Link.cursorReset_lastSeq (k : Link) :
    (k.cursorReset).lastSeq = k.lastSeq := rfl
@[simp] theorem Link.cursorReset_records (k : Link) :
    (k.cursorReset).records = k.records := rfl
@[simp] theorem Link.cursorReset_ctrl (k : Link) :
    (k.cursorReset).ctrl = k.ctrl := rfl

/-! #### Link.withSw -/

@[simp] theorem Link.withSw_q (k : Link) (es : List Entry) :
    (k.withSw es).q = k.q := rfl
@[simp] theorem Link.withSw_online (k : Link) (es : List Entry) :
    (k.withSw es).online = k.online := rfl
@[simp] theorem Link.withSw_lastAlive (k : Link) (es : List Entry) :
    (k.withSw es).lastAlive = k.lastAlive := rfl
@[simp] theorem Link.withSw_waitStart (k : Link) (es : List Entry) :
    (k.withSw es).waitStart = k.waitStart := rfl
@[simp] theorem Link.withSw_wphase (k : Link) (es : List Entry) :
    (k.withSw es).wphase = k.wphase := rfl
@[simp] theorem Link.withSw_rxbuf (k : Link) (es : List Entry) :
    (k.withSw es).rxbuf = k.rxbuf := rfl
@[simp] theorem Link.withSw_step (k : Link) (es : List Entry) :
    (k.withSw es).step = k.step := rfl
@[simp] theorem Link.withSw_index (k : Link) (es : List Entry) :
    (k.withSw es).index = k.index := rfl
@[simp] theorem Link.withSw_declaredLength (k : Link) (es : List Entry) :
    (k.withSw es).declaredLength = k.declaredLength := rfl
@[simp] theorem Link.withSw_scratch (k : Link) (es : List Entry) :
    (k.withSw es).scratch = k.scratch := rfl
@[simp] theorem Link.withSw_lastSeq (k : Link) (es : List Entry) :
    (k.withSw es).lastSeq = k.lastSeq := rfl
@[simp] theorem Link.withSw_records (k : Link) (es : List Entry) :
    (k.withSw es).records = k.records := rfl
@[simp] theorem Link.withSw_ctrl (k : Link) (es : List Entry) :
    (k.withSw es).ctrl = { k.ctrl with sw := es } := rfl

/-! #### Link.withBtn -/

@[simp] theorem Link.withBtn_q (k : Link) (es : List Entry) :
    (k.withBtn es).q = k.q := rfl
@[simp] theorem Link.withBtn_online (k : Link) (es : List Entry) :
    (k.withBtn es).online = k.online := rfl
@[simp] theorem Link.withBtn_lastAlive (k : Link) (es : List Entry) :
    (k.withBtn es).lastAlive = k.lastAlive := rfl
@[simp] theorem Link.withBtn_waitStart (k : Link) (es : List Entry) :
    (k.withBtn es).waitStart = k.waitStart := rfl
@[simp] theorem Link.withBtn_wphase (k : Link) (es : List Entry) :
    (k.withBtn es).wphase = k.wphase := rfl
@[simp] theorem Link.withBtn_rxbuf (k : Link) (es : List Entry) :
    (k.withBtn es).rxbuf = k.rxbuf := rfl
@[simp] theorem Link.withBtn_step (k : Link) (es : List Entry) :
    (k.withBtn es).step = k.step := rfl
@[simp] theorem Link.withBtn_index (k : Link) (es : List Entry) :
    (k.withBtn es).index = k.index := rfl
@[simp] theorem Link.withBtn_declaredLength (k : Link) (es : List Entry) :
    (k.withBtn es).declaredLength = k.declaredLength := rfl
@[simp] theorem Link.withBtn_scratch (k : Link) (es : List Entry) :
    (k.withBtn es).scratch = k.scratch := rfl
@[simp] theorem Link.withBtn_lastSeq (k : Link) (es : List Entry) :
    (k.withBtn es).lastSeq = k.lastSeq := rfl
@[simp] theorem Link.withBtn_records (k : Link) (es : List Entry) :
    (k.withBtn es).records = k.records := rfl
@[simp] theorem Link.withBtn_ctrl (k : Link) (es : List Entry) :
    (k.withBtn es).ctrl = { k.ctrl with btn := es } := rfl

/-! #### Link.reset -/

@[simp] theorem Link.reset_q (g : Config) (c : LinkCfg) :
    (Link.reset g c).q = [] := rfl
@[simp] theorem Link.reset_online (g : Config) (c : LinkCfg) :
    (Link.reset g c).online = false := rfl
@[simp] theorem Link.reset_lastAlive (g : Config) (c : LinkCfg) :
    (Link.reset g c).lastAlive = 0#32 := rfl
@[simp] theorem Link.reset_waitStart (g : Config) (c : LinkCfg) :
    (Link.reset g c).waitStart = 0#32 := rfl
@[simp] theorem Link.reset_wphase (g : Config) (c : LinkCfg) :
    (Link.reset g c).wphase = .recv := rfl
@[simp] theorem Link.reset_rxbuf (g : Config) (c : LinkCfg) :
    (Link.reset g c).rxbuf = [] := rfl
@[simp] theorem Link.reset_step (g : Config) (c : LinkCfg) :
    (Link.reset g c).step = .seekSof := rfl
@[simp] theorem Link.reset_index (g : Config) (c : LinkCfg) :
    (Link.reset g c).index = 0#16 := rfl
@[simp] theorem Link.reset_declaredLength (g : Config) (c : LinkCfg) :
    (Link.reset g c).declaredLength = 0#16 := rfl
@[simp] theorem Link.reset_scratch (g : Config) (c : LinkCfg) :
    (Link.reset g c).scratch = [] := rfl
@[simp] theorem Link.reset_lastSeq (g : Config) (c : LinkCfg) :
    (Link.reset g c).lastSeq = 0#8 := rfl
@[simp] theorem Link.reset_records (g : Config) (c : LinkCfg) :
    (Link.reset g c).records = [] := rfl
@[simp] theorem Link.reset_ctrl (g : Config) (c : LinkCfg) :
    (Link.reset g c).ctrl = Ctrl.reset g c.kind := rfl

/-! ### Updates of the control store -/

/-! #### Ctrl.load -/

@[simp] theorem Ctrl.load_chOff0 (kd : Kind) (x : Fields) (c : Ctrl) :
    (c.load kd x).chOff0 = chOffset x.ch0 := rfl
@[simp] theorem Ctrl.load_chOff1 (kd : Kind) (x : Fields) (c : Ctrl) :
    (c.load kd x).chOff1 = chOffset x.ch1 := rfl
@[simp] theorem Ctrl.load_chOff2 (kd : Kind) (x : Fields) (c : Ctrl) :
    (c.load kd x).chOff2 = chOffset x.ch2 := rfl
@[simp] theorem Ctrl.load_chOff3 (kd : Kind) (x : Fields) (c : Ctrl) :
    (c.load kd x).chOff3 = chOffset x.ch3 := rfl
@[simp] theorem Ctrl.load_wheelRaw (kd : Kind) (x : Fields) (c : Ctrl) :
    (c.load kd x).wheelRaw = if kd = .fixedA then x.wheel else c.wheelRaw := rfl
@[simp] theorem Ctrl.load_mouseX (kd : Kind) (x : Fields) (c : Ctrl) :
    (c.load kd x).mouseX = x.mouseX := rfl
@[simp] theorem Ctrl.load_mouseY (kd : Kind) (x : Fields) (c : Ctrl) :
    (c.load kd x).mouseY = x.mouseY := rfl
@[simp] theorem Ctrl.load_mouseZ (kd : Kind) (x : Fields) (c : Ctrl) :
    (c.load kd x).mouseZ = x.mouseZ := rfl
@[simp] theorem Ctrl.load_mbtnRaw0 (kd : Kind) (x : Fields) (c : Ctrl) :
    (c.load kd x).mbtnRaw0 = x.mbtn0 := rfl
@[simp] theorem Ctrl.load_mbtnRaw1 (kd : Kind) (x : Fields) (c : Ctrl) :
    (c.load kd x).mbtnRaw1 = x.mbtn1 := rfl
@[simp] theorem Ctrl.load_keyRaw (kd : Kind) (x : Fields) (c : Ctrl) :
    (c.load kd x).keyRaw = x.keys := rfl
@[simp] theorem Ctrl.load_sw (kd : Kind) (x : Fields) (c : Ctrl) :
    (c.load kd x).sw = c.sw := rfl
@[simp] theorem Ctrl.load_btn (kd : Kind) (x : Fields) (c : Ctrl) :
    (c.load kd x).btn = c.btn := rfl

/-! #### Ctrl.commit -/

@[simp] theorem Ctrl.commit_chOff0 (g : Config) (kd : Kind) (n : Word) (x : Fields) (c : Ctrl) :
    (c.commit g kd n x).chOff0 = chOffset x.ch0 := rfl
@[simp] theorem Ctrl.commit_chOff1 (g : Config) (kd : Kind) (n : Word) (x : Fields) (c : Ctrl) :
    (c.commit g kd n x).chOff1 = chOffset x.ch1 := rfl
@[simp] theorem Ctrl.commit_chOff2 (g : Config) (kd : Kind) (n : Word) (x : Fields) (c : Ctrl) :
    (c.commit g kd n x).chOff2 = chOffset x.ch2 := rfl
@[simp] theorem Ctrl.commit_chOff3 (g : Config) (kd : Kind) (n : Word) (x : Fields) (c : Ctrl) :
    (c.commit g kd n x).chOff3 = chOffset x.ch3 := rfl
@[simp] theorem Ctrl.commit_wheelRaw (g : Config) (kd : Kind) (n : Word) (x : Fields) (c : Ctrl) :
    (c.commit g kd n x).wheelRaw = if kd = .fixedA then x.wheel else c.wheelRaw := rfl
@[simp] theorem Ctrl.commit_mouseX (g : Config) (kd : Kind) (n : Word) (x : Fields) (c : Ctrl) :
    (c.commit g kd n x).mouseX = x.mouseX := rfl
@[simp] theorem Ctrl.commit_mouseY (g : Config) (kd : Kind) (n : Word) (x : Fields) (c : Ctrl) :
    (c.commit g kd n x).mouseY = x.mouseY := rfl
@[simp] theorem Ctrl.commit_mouseZ (g : Config) (kd : Kind) (n : Word) (x : Fields) (c : Ctrl) :
    (c.commit g kd n x).mouseZ = x.mouseZ := rfl
@[simp] theorem Ctrl.commit_mbtnRaw0 (g : Config) (kd : Kind) (n : Word) (x : Fields) (c : Ctrl) :
    (c.commit g kd n x).mbtnRaw0 = x.mbtn0 := rfl
@[simp] theorem Ctrl.commit_mbtnRaw1 (g : Config) (kd : Kind) (n : Word) (x : Fields) (c : Ctrl) :
    (c.commit g kd n x).mbtnRaw1 = x.mbtn1 := rfl
@[simp] theorem Ctrl.commit_keyRaw (g : Config) (kd : Kind) (n : Word) (x : Fields) (c : Ctrl) :
    (c.commit g kd n x).keyRaw = x.keys := rfl
@[simp] theorem Ctrl.commit_sw (g : Config) (kd : Kind) (n : Word) (x : Fields) (c : Ctrl) :
    (c.commit g kd n x).sw = evalEach (evalSwitch g n) (switchCodes kd x) c.sw := rfl
@[simp] theorem Ctrl.commit_btn (g : Config) (kd : Kind) (n : Word) (x : Fields) (c : Ctrl) :
    (c.commit g kd n x).btn = evalEach (evalButton g n) (buttonLevels g kd x) c.btn := rfl

/-! ### Updates of an entry -/

/-! #### Entry.windowExpired -/

@[simp] theorem Entry.windowExpired_rawState (e : Entry) :
    (e.windowExpired).rawState = e.rawState := rfl
@[simp] theorem Entry.windowExpired_stableState (e : Entry) :
    (e.windowExpired).stableState = e.stableState := rfl
@[simp] theorem Entry.windowExpired_event (e : Entry) :
    (e.windowExpired).event = pressedEvent := rfl
@[simp] theorem Entry.windowExpired_pressTime (e : Entry) :
    (e.windowExpired).pressTime = e.pressTime := rfl
@[simp] theorem Entry.windowExpired_releaseTime (e : Entry) :
    (e.windowExpired).releaseTime = e.releaseTime := rfl
@[simp] theorem Entry.windowExpired_holdTime (e : Entry) :
    (e.windowExpired).holdTime = e.holdTime := rfl
@[simp] theorem Entry.windowExpired_changeTime (e : Entry) :
    (e.windowExpired).changeTime = e.changeTime := rfl
@[simp] theorem Entry.windowExpired_repeatCount (e : Entry) :
    (e.windowExpired).repeatCount = e.repeatCount := rfl
@[simp] theorem Entry.windowExpired_pending (e : Entry) :
    (e.windowExpired).pending = false := rfl
@[simp] theorem Entry.windowExpired_holdStart (e : Entry) :
    (e.windowExpired).holdStart = e.holdStart := rfl

/-! #### Entry.rise -/

@[simp] theorem Entry.rise_rawState (n : Word) (e : Entry) :
    (e.rise n).rawState = e.rawState := rfl
@[simp] theorem Entry.rise_stableState (n : Word) (e : Entry) :
    (e.rise n).stableState = 1#2 := rfl
@[simp] theorem Entry.rise_event (n : Word) (e : Entry) :
    (e.rise n).event = risingEvent := rfl
@[simp] theorem Entry.rise_pressTime (n : Word) (e : Entry) :
    (e.rise n).pressTime = n := rfl
@[simp] theorem Entry.rise_releaseTime (n : Word) (e : Entry) :
    (e.rise n).releaseTime = e.releaseTime := rfl
@[simp] theorem Entry.rise_holdTime (n : Word) (e : Entry) :
    (e.rise n).holdTime = 0#32 := rfl
@[simp] theorem Entry.rise_changeTime (n : Word) (e : Entry) :
    (e.rise n).changeTime = e.changeTime := rfl
@[simp] theorem Entry.rise_repeatCount (n : Word) (e : Entry) :
    (e.rise n).repeatCount = if e.pending then countUp e.repeatCount else 1#8 := rfl
@[simp] theorem Entry.rise_pending (n : Word) (e : Entry) :
    (e.rise n).pending = false := rfl
@[simp] theorem Entry.rise_holdStart (n : Word) (e : Entry) :
    (e.rise n).holdStart = e.holdStart := rfl

/-! #### Entry.fall -/

@[simp] theorem Entry.fall_rawState (n : Word) (h : Bool) (e : Entry) :
    (e.fall n h).rawState = e.rawState := rfl
@[simp] theorem Entry.fall_stableState (n : Word) (h : Bool) (e : Entry) :
    (e.fall n h).stableState = 0#2 := rfl
@[simp] theorem Entry.fall_event (n : Word) (h : Bool) (e : Entry) :
    (e.fall n h).event = fallingEvent := rfl
@[simp] theorem Entry.fall_pressTime (n : Word) (h : Bool) (e : Entry) :
    (e.fall n h).pressTime = e.pressTime := rfl
@[simp] theorem Entry.fall_releaseTime (n : Word) (h : Bool) (e : Entry) :
    (e.fall n h).releaseTime = n := rfl
@[simp] theorem Entry.fall_holdTime (n : Word) (h : Bool) (e : Entry) :
    (e.fall n h).holdTime = e.holdTime := rfl
@[simp] theorem Entry.fall_changeTime (n : Word) (h : Bool) (e : Entry) :
    (e.fall n h).changeTime = e.changeTime := rfl
@[simp] theorem Entry.fall_repeatCount (n : Word) (h : Bool) (e : Entry) :
    (e.fall n h).repeatCount = e.repeatCount := rfl
@[simp] theorem Entry.fall_pending (n : Word) (h : Bool) (e : Entry) :
    (e.fall n h).pending = !h := rfl
@[simp] theorem Entry.fall_holdStart (n : Word) (h : Bool) (e : Entry) :
    (e.fall n h).holdStart = e.holdStart := rfl

/-! #### Entry.keepHold -/

@[simp] theorem Entry.keepHold_rawState (n : Word) (e : Entry) :
    (e.keepHold n).rawState = e.rawState := rfl
@[simp] theorem Entry.keepHold_stableState (n : Word) (e : Entry) :
    (e.keepHold n).stableState = e.stableState := rfl
@[simp] theorem Entry.keepHold_event (n : Word) (e : Entry) :
    (e.keepHold n).event = heldEvent := rfl
@[simp] theorem Entry.keepHold_pressTime (n : Word) (e : Entry) :
    (e.keepHold n).pressTime = e.pressTime := rfl
@[simp] theorem Entry.keepHold_releaseTime (n : Word) (e : Entry) :
    (e.keepHold n).releaseTime = e.releaseTime := rfl
@[simp] theorem Entry.keepHold_holdTime (n : Word) (e : Entry) :
    (e.keepHold n).holdTime = n - e.holdStart := rfl
@[simp] theorem Entry.keepHold_changeTime (n : Word) (e : Entry) :
    (e.keepHold n).changeTime = e.changeTime := rfl
@[simp] theorem Entry.keepHold_repeatCount (n : Word) (e : Entry) :
    (e.keepHold n).repeatCount = e.repeatCount := rfl
@[simp] theorem Entry.keepHold_pending (n : Word) (e : Entry) :
    (e.keepHold n).pending = e.pending := rfl
@[simp] theorem Entry.keepHold_holdStart (n : Word) (e : Entry) :
    (e.keepHold n).holdStart = e.holdStart := rfl

/-! #### Entry.enterHold -/

@[simp] theorem Entry.enterHold_rawState (n : Word) (e : Entry) :
    (e.enterHold n).rawState = e.rawState := rfl
@[simp] theorem Entry.enterHold_stableState (n : Word) (e : Entry) :
    (e.enterHold n).stableState = e.stableState := rfl
@[simp] theorem Entry.enterHold_event (n : Word) (e : Entry) :
    (e.enterHold n).event = heldEvent := rfl
@[simp] theorem Entry.enterHold_pressTime (n : Word) (e : Entry) :
    (e.enterHold n).pressTime = e.pressTime := rfl
@[simp] theorem Entry.enterHold_releaseTime (n : Word) (e : Entry) :
    (e.enterHold n).releaseTime = e.releaseTime := rfl
@[simp] theorem Entry.enterHold_holdTime (n : Word) (e : Entry) :
    (e.enterHold n).holdTime = 0#32 := rfl
@[simp] theorem Entry.enterHold_changeTime (n : Word) (e : Entry) :
    (e.enterHold n).changeTime = e.changeTime := rfl
@[simp] theorem Entry.enterHold_repeatCount (n : Word) (e : Entry) :
    (e.enterHold n).repeatCount = e.repeatCount := rfl
@[simp] theorem Entry.enterHold_pending (n : Word) (e : Entry) :
    (e.enterHold n).pending = e.pending := rfl
@[simp] theorem Entry.enterHold_holdStart (n : Word) (e : Entry) :
    (e.enterHold n).holdStart = n := rfl

/-! #### Entry.present -/

/-- After the filter's first lines `raw_state` is the presented code (R231, R232). -/
@[simp] theorem Entry.present_rawState (v : BitVec 2) (n : Word) (e : Entry) : (e.present v n).rawState = v := by
  unfold Entry.present; split
  · rfl
  · simp_all

/-- `change_time` moves exactly when the presented code changes (R231, R232). -/
@[simp] theorem Entry.present_changeTime (v : BitVec 2) (n : Word) (e : Entry) :
    (e.present v n).changeTime = if v ≠ e.rawState then n else e.changeTime := by
  unfold Entry.present; split <;> rfl

@[simp] theorem Entry.present_stableState (v : BitVec 2) (n : Word) (e : Entry) :
    (e.present v n).stableState = e.stableState := by unfold Entry.present; split <;> rfl
@[simp] theorem Entry.present_event (v : BitVec 2) (n : Word) (e : Entry) :
    (e.present v n).event = e.event := by unfold Entry.present; split <;> rfl
@[simp] theorem Entry.present_pressTime (v : BitVec 2) (n : Word) (e : Entry) :
    (e.present v n).pressTime = e.pressTime := by unfold Entry.present; split <;> rfl
@[simp] theorem Entry.present_releaseTime (v : BitVec 2) (n : Word) (e : Entry) :
    (e.present v n).releaseTime = e.releaseTime := by unfold Entry.present; split <;> rfl
@[simp] theorem Entry.present_holdTime (v : BitVec 2) (n : Word) (e : Entry) :
    (e.present v n).holdTime = e.holdTime := by unfold Entry.present; split <;> rfl
@[simp] theorem Entry.present_repeatCount (v : BitVec 2) (n : Word) (e : Entry) :
    (e.present v n).repeatCount = e.repeatCount := by unfold Entry.present; split <;> rfl
@[simp] theorem Entry.present_pending (v : BitVec 2) (n : Word) (e : Entry) :
    (e.present v n).pending = e.pending := by unfold Entry.present; split <;> rfl
@[simp] theorem Entry.present_holdStart (v : BitVec 2) (n : Word) (e : Entry) :
    (e.present v n).holdStart = e.holdStart := by unfold Entry.present; split <;> rfl

/-! ### Verdicts -/

@[simp] theorem quiet_link (k : Link) (st : Status) : (quiet k st).link = k := rfl
@[simp] theorem quiet_status (k : Link) (st : Status) : (quiet k st).status = st := rfl
@[simp] theorem quiet_alive (k : Link) (st : Status) : (quiet k st).alive = false := rfl
@[simp] theorem discarded_link (k : Link) (st : Status) : (discarded k st).link = k := rfl
@[simp] theorem discarded_status (k : Link) (st : Status) : (discarded k st).status = st := rfl
@[simp] theorem discarded_alive (k : Link) (st : Status) : (discarded k st).alive = false := rfl
@[simp] theorem committed_link (g : Config) (kd : Kind) (n : Word) (x : Fields) (k : Link) :
    (committed g kd n x k).link = { k with ctrl := k.ctrl.commit g kd n x } := rfl
@[simp] theorem committed_status (g : Config) (kd : Kind) (n : Word) (x : Fields) (k : Link) :
    (committed g kd n x k).status = .ok := rfl
@[simp] theorem committed_alive (g : Config) (kd : Kind) (n : Word) (x : Fields) (k : Link) :
    (committed g kd n x k).alive = true := rfl

end Sys2Proof.Machine
end

