-- ==== Sys2Proof/Laws/Ops.lean ====
section
/-! SUPPORT. For each shared operation, one lemma that says everything it can do: access to a link, the flag operations,
commits, liveness. -/

namespace Sys2Proof.Machine

/-! ### Links -/

/-- `Every` by index. -/
theorem State.every_iff {s : State} {p : LinkCfg → Link → Prop} :
    s.Every p ↔ ∀ (n : Nat) c k, s.cfg.links[n]? = some c → s.links[n]? = some k → p c k := by
  unfold State.Every
  constructor
  · intro h n c k hc hk
    refine h (c, k) (List.mem_iff_getElem?.2 ⟨n, ?_⟩)
    simp [List.getElem?_zip_eq_some, hc, hk]
  · rintro h ⟨c, k⟩ hx
    obtain ⟨n, hn⟩ := List.mem_iff_getElem?.1 hx
    simp only [List.getElem?_zip_eq_some] at hn
    exact h n c k hn.1 hn.2

theorem State.Every.hasLink {s : State} {p : LinkCfg → Link → Prop} (h : s.Every p) {l : Byte} {c : LinkCfg} {k : Link}
    (hl : s.HasLink l c k) : p c k := State.every_iff.1 h _ c k hl.1 hl.2

/-- Replacing one link keeps a property of every link that the new link has. -/
theorem State.every_set {s t : State} {p : LinkCfg → Link → Prop} {l : Byte} {c : LinkCfg} {k' : Link}
    (h : s.Every p) (hc : s.cfg.links[l.toNat]? = some c) (hcfg : t.cfg = s.cfg)
    (hlinks : t.links = s.links.set l.toNat k') (hk : p c k') : t.Every p := by
  refine State.every_iff.2 fun n d k hd hn => ?_
  rw [hcfg] at hd
  rw [hlinks, List.getElem?_set] at hn
  split at hn
  · subst n
    split at hn
    · rw [hc] at hd
      cases hd; cases hn
      exact hk
    · cases hn
  · exact State.every_iff.1 h n d k hd hn

/-- A property of every link depends on the links and the configuration's list of links alone. -/
theorem State.every_congr {s t : State} {p : LinkCfg → Link → Prop} (hl : t.links = s.links)
    (hc : t.cfg.links = s.cfg.links) : t.Every p ↔ s.Every p := by unfold State.Every; rw [hl, hc]

/-- After RESET a property holds of every link if it holds of each link at reset. -/
theorem State.every_resetWith {cfg d : Config} {rs : List Request} {n : Word} {r : Response}
    {d' : Nat} {p : LinkCfg → Link → Prop} (h : ∀ c ∈ cfg.links, p c (Link.reset cfg c)) :
    (State.resetWith cfg d rs n r d').Every p := by
  refine State.every_iff.2 fun m c k hc hk => ?_
  simp only [State.resetWith_cfg, State.resetWith_links, List.getElem?_map] at hc hk
  rw [hc] at hk
  cases hk
  exact h c (List.mem_of_getElem? hc)

/-- The spaces of every link of the machine after reset are in canonical form. -/
theorem State.reset_spaces_wf :
    ∀ k ∈ State.reset.links, k.rxbuf.wf = true ∧ k.scratch.wf = true ∧ k.records.wf = true := by decide

theorem linkIs_iff {cfg : Config} {l : Byte} {p : LinkCfg → Bool} :
    linkIs cfg l p = true ↔ ∃ c, cfg.links[l.toNat]? = some c ∧ p c = true := by
  unfold linkIs
  split
  · rename_i c hc
    simp [hc]
  · rename_i hc
    simp [hc]

/-- On a legal command of a link that exists, `onLink` runs the body. -/
theorem onLink_run {i : Instr} {l : Byte} {s : State} {body : LinkCfg → Link → Out} {c : LinkCfg} {k : Link}
    (hi : legal s.cfg i = true) (hl : s.HasLink l c k) : onLink i l s body = body c k := by
  unfold onLink
  rw [if_pos hi, hl.1, hl.2]

/-- An illegal command answers ILLEGAL_OP and changes nothing (R93). -/
theorem onLink_illegal {i : Instr} {l : Byte} {s : State} {body : LinkCfg → Link → Out}
    (hi : legal s.cfg i = false) : onLink i l s body = .next (s.respond .illegalOp .none) := by
  unfold onLink
  rw [if_neg (by simp [hi])]
  rfl

/-- Everything `onLink` can do. -/
theorem onLink_cases (i : Instr) (l : Byte) (s : State) (body : LinkCfg → Link → Out) :
    onLink i l s body = .next (s.respond .illegalOp .none)
      ∨ ∃ c k, legal s.cfg i = true ∧ s.HasLink l c k ∧ onLink i l s body = body c k := by
  unfold onLink
  split
  · rename_i hi
    split
    · rename_i c k hc hk
      exact .inr ⟨c, k, hi, ⟨hc, hk⟩, rfl⟩
    · exact .inl rfl
  · exact .inl rfl

/-- `raise` completes with the status and changes nothing else (R16). -/
@[simp] theorem State.raise_eq (s : State) (st : Status) : s.raise st = .next (s.respond st .none) := rfl

/-! ### Flags -/

/-- The bits of a mask after an atomic set. -/
theorem setPrio_bit (m : Word) (p : Option Prio) (q : Prio) :
    (setPrio m p).getLsbD q.val = (m.getLsbD q.val || decide (p = some q)) := by
  cases p with
  | none => simp [setPrio]
  | some p =>
    obtain ⟨p, hp⟩ := p
    obtain ⟨q, hq⟩ := q
    simp only [setPrio, BitVec.getLsbD_or, BitVec.getLsbD_shiftLeft, BitVec.getLsbD_one, Option.some.injEq, Fin.mk.injEq]
    by_cases h : p = q
    · subst h; simp [hp]
    · by_cases h2 : q < p
      · simp [h, h2, hq]
      · simp [h, h2, hq, show q - p ≠ 0 by omega]

/-- The bits of a mask after an atomic clear. -/
theorem clearPrio_bit (m : Word) (p : Option Prio) (q : Prio) :
    (clearPrio m p).getLsbD q.val = (m.getLsbD q.val && !decide (p = some q)) := by
  cases p with
  | none => simp [clearPrio]
  | some p =>
    obtain ⟨p, hp⟩ := p
    obtain ⟨q, hq⟩ := q
    simp only [clearPrio, BitVec.getLsbD_and, BitVec.getLsbD_not, BitVec.getLsbD_shiftLeft, BitVec.getLsbD_one,
      Option.some.injEq, Fin.mk.injEq]
    by_cases h : p = q
    · subst h; simp [hp]
    · by_cases h2 : q < p
      · simp [h, h2, hq]
      · simp [h, h2, hq, show q - p ≠ 0 by omega]

/-- The bits of the mask below `p`. -/
theorem lowMask_bit (p q : Nat) (hp : p < 32) (hq : q < 32) :
    ((1#32 <<< p) - 1#32).getLsbD q = decide (q < p) := by
  have h : (1#32 <<< p) - 1#32 = BitVec.ofNat 32 (2 ^ p - 1) := by
    apply BitVec.eq_of_toNat_eq
    have h2 : 2 ^ p < 2 ^ 32 := Nat.pow_lt_pow_right (by norm_num) hp
    have h3 : 0 < 2 ^ p := Nat.two_pow_pos p
    simp only [BitVec.toNat_sub, BitVec.toNat_shiftLeft, BitVec.toNat_ofNat, Nat.shiftLeft_eq]
    norm_num at h2 ⊢
    omega
  rw [h, BitVec.getLsbD_ofNat]
  simp [hq, Nat.testBit_two_pow_sub_one]

/-- The admission test looks at the bits below `p` and at nothing else (R151). -/
theorem admits_iff (m : Word) (p : Prio) : admits m (some p) = true ↔ ∀ q : Prio, q < p → m.getLsbD q.val = false := by
  simp only [admits, beq_iff_eq]
  constructor
  · intro h q hq
    have := congrArg (fun x : Word => x.getLsbD q.val) h
    simp only [BitVec.getLsbD_and, lowMask_bit p.val q.val p.isLt q.isLt, BitVec.getLsbD_zero] at this
    simpa [show q.val < p.val from hq] using this
  · intro h
    apply BitVec.eq_of_getLsbD_eq
    intro i hi
    rw [BitVec.getLsbD_and, lowMask_bit p.val i p.isLt hi]
    by_cases hip : i < p.val
    · simp [h ⟨i, hi⟩ hip]
    · simp [hip]

/-- The winning source is the least set bit (R156). -/
theorem activeSource_some_iff (m : Word) (p : Prio) :
    activeSource m = some p ↔ m.getLsbD p.val = true ∧ ∀ q : Prio, q < p → m.getLsbD q.val = false := by
  rw [activeSource, List.find?_eq_some_iff_getElem]
  constructor
  · rintro ⟨h1, i, hi, h2, h3⟩
    refine ⟨h1, fun q hq => ?_⟩
    simp only [List.getElem_finRange, Fin.ext_iff] at h2
    have hip : i = p.val := by simpa using h2
    have := h3 q.val (by rw [hip]; exact hq)
    simpa using this
  · rintro ⟨h1, h2⟩
    refine ⟨h1, p.val, by simp, by simp, fun j hj => ?_⟩
    simpa using h2 ⟨j, by omega⟩ hj

/-- There is no winning source exactly when no bit is set (R156). -/
theorem activeSource_none_iff (m : Word) : activeSource m = none ↔ m = 0#32 := by
  rw [activeSource, List.find?_eq_none]
  constructor
  · intro h
    apply BitVec.eq_of_getLsbD_eq
    intro i hi
    simpa using h ⟨i, hi⟩ (List.mem_finRange _)
  · rintro rfl x -
    simp

/-! ### Commits -/

/-- Everything a commit of a verdict does: link `l` becomes the verdict's, alive if it calls MARK_ALIVE, and the link's
own bit is set then. -/
theorem State.settle_eq (s : State) (l : Byte) (c : LinkCfg) (v : Verdict) :
    s.settle l c v = s.update l (if v.alive then v.link.alive s.now else v.link)
      (if v.alive then setPrio s.prioMask c.prio else s.prioMask) v.status .none := by
  unfold State.settle
  split <;> simp_all

/-- Everything LIVE_CHECK's commit does. -/
theorem State.checkLive_eq (s : State) (l : Byte) (c : LinkCfg) (lost : Bool) (k : Link) :
    s.checkLive l c lost k = s.update l (if lost then k.dead else k)
      (if lost then clearPrio s.prioMask c.prio else s.prioMask) (if lost then .liveLost else .ok) .none := by
  unfold State.checkLive
  split <;> simp_all

/-- Evaluating entry by entry: the entries with an operand are evaluated, the others stay (R210). -/
theorem evalEach_getElem? {α : Type} (f : α → Entry → Entry) (as : List α) (es : List Entry) (n : Nat) :
    (evalEach f as es)[n]? = match as[n]?, es[n]? with
      | some a, some e => some (f a e)
      | _, e => e := by
  induction as generalizing es n with
  | nil => simp [evalEach]
  | cons a as ih =>
    cases es with
    | nil => simp [evalEach]
    | cons e es =>
      cases n with
      | zero => simp [evalEach]
      | succ n => simp [evalEach, ih]

@[simp] theorem evalEach_length {α : Type} (f : α → Entry → Entry) (as : List α) (es : List Entry) :
    (evalEach f as es).length = es.length := by
  induction as generalizing es with
  | nil => simp [evalEach]
  | cons a as ih => cases es <;> simp [evalEach, ih]

/-- Every entry after an evaluation is an entry evaluated or an entry left. -/
theorem mem_evalEach {α : Type} {f : α → Entry → Entry} {as : List α} {es : List Entry} {x : Entry}
    (h : x ∈ evalEach f as es) : x ∈ es ∨ ∃ a e, e ∈ es ∧ x = f a e := by
  induction as generalizing es with
  | nil => simp only [evalEach] at h; exact .inl h
  | cons a as ih =>
    cases es with
    | nil => simp [evalEach] at h
    | cons e es =>
      simp only [evalEach, List.mem_cons] at h
      rcases h with rfl | h
      · exact .inr ⟨a, e, List.mem_cons_self, rfl⟩
      · rcases ih h with h | ⟨b, d, hd, rfl⟩
        · exact .inl (List.mem_cons_of_mem _ h)
        · exact .inr ⟨b, d, List.mem_cons_of_mem _ hd, rfl⟩

end Sys2Proof.Machine
end

