-- ==== Sys2Proof/Laws/Debounce.lean ====
section
/-! SUPPORT. The debounce machine: everything one evaluation can do to an entry (44_debounce.md R231, R233). -/

namespace Sys2Proof.Machine

/-- Everything one EVAL_SW can do to its entry (R231). -/
theorem evalSwitch_cases (cfg : Config) (now : Word) (v : BitVec 2) (e : Entry) :
    ((e.present v now).accepts cfg.tDebounceSw now = true
      ∧ evalSwitch cfg now v e = { e.present v now with event := edgeEvent e.stableState v, stableState := v, changeTime := now })
    ∨ ((e.present v now).accepts cfg.tDebounceSw now = false
      ∧ evalSwitch cfg now v e = { e.present v now with event := Event.idle }) := by
  unfold evalSwitch
  simp only [Entry.present_rawState, Entry.present_stableState]
  split
  · rename_i ha
    exact .inl ⟨ha, rfl⟩
  · rename_i ha
    exact .inr ⟨Bool.eq_false_iff.2 ha, rfl⟩

/-- Acceptance of a presented code: it differs from the accepted one and has persisted (R231, R232). -/
theorem accepts_iff (t : Nat) (now : Word) (e : Entry) :
    e.accepts t now = true ↔ e.rawState ≠ e.stableState ∧ t ≤ elapsed now e.changeTime := by
  simp [Entry.accepts]

/-- Everything one EVAL_BTN can do to its entry: the six branches, each with its condition (R233). -/
theorem classify_cases (cfg : Config) (now : Word) (h : Bool) (e : Entry) :
    (e.pending = true ∧ e.classify cfg now h = e.windowExpired)
    ∨ (e.accepts cfg.tDebounceBtn now = true ∧ e.rawState = 1#2 ∧ e.classify cfg now h = e.rise now)
    ∨ (e.accepts cfg.tDebounceBtn now = true ∧ e.rawState = 0#2 ∧ e.classify cfg now h = e.fall now h)
    ∨ (e.stableState = 1#2 ∧ h = true ∧ e.classify cfg now h = e.keepHold now)
    ∨ (e.stableState = 1#2 ∧ cfg.tHold ≤ elapsed now e.pressTime ∧ e.classify cfg now h = e.enterHold now)
    ∨ e.classify cfg now h = { e with event := Event.idle } := by
  unfold Entry.classify
  dsimp only
  split
  · rename_i hc
    simp only [Bool.and_eq_true] at hc
    exact .inl ⟨hc.1, rfl⟩
  · split
    · rename_i hc
      simp only [Bool.and_eq_true, beq_iff_eq] at hc
      exact .inr (.inl ⟨hc.1, hc.2, rfl⟩)
    · split
      · rename_i hc
        simp only [Bool.and_eq_true, beq_iff_eq] at hc
        exact .inr (.inr (.inl ⟨hc.1, hc.2, rfl⟩))
      · split
        · rename_i hc
          simp only [Bool.and_eq_true, beq_iff_eq] at hc
          exact .inr (.inr (.inr (.inl ⟨hc.1, hc.2, rfl⟩)))
        · split
          · rename_i hc
            simp only [Bool.and_eq_true, beq_iff_eq, decide_eq_true_eq] at hc
            exact .inr (.inr (.inr (.inr (.inl ⟨hc.1, hc.2, rfl⟩))))
          · exact .inr (.inr (.inr (.inr (.inr rfl))))

/-- A level is 0 or 1 (R232). -/
theorem levelCode_bit1 (v : Bool) : (levelCode v).getLsbD 1 = false := by cases v <;> decide

end Sys2Proof.Machine
end

