-- ==== Sys2Proof/Laws/FixedFrame.lean ====
section
/-! SUPPORT. The fixed-frame validator: everything one VALIDATE_A or VALIDATE_B can do to a link (43_fixed_frame.md R203,
R204). -/

namespace Sys2Proof.Machine

/-- Everything VALIDATE_A can do (R203): the checks in their order, and a commit. -/
theorem validateA_cases (cfg : Config) (now : Word) (frame : List Byte) (k : Link) :
    (frame.length ≠ Config.frameLenA ∧ validateA cfg now frame k = discarded k .badLen)
    ∨ (frame.length = Config.frameLenA ∧ rangeOk cfg (extractA frame) = false
      ∧ validateA cfg now frame k = discarded k .badRange)
    ∨ (frame.length = Config.frameLenA ∧ rangeOk cfg (extractA frame) = true
      ∧ validateA cfg now frame k = committed cfg .fixedA now (extractA frame) k) := by
  unfold validateA
  split
  · rename_i h
    exact .inl ⟨h, rfl⟩
  · rename_i h
    have h := not_not.1 h
    cases hr : rangeOk cfg (extractA frame)
    · exact .inr (.inl ⟨h, rfl, rfl⟩)
    · exact .inr (.inr ⟨h, rfl, rfl⟩)

/-- Everything VALIDATE_B can do (R204): the checks in their order, and a commit. -/
theorem validateB_cases (cfg : Config) (now : Word) (frame : List Byte) (k : Link) :
    (frame.length ≠ cfg.bLen ∧ validateB cfg now frame k = discarded k .badLen)
    ∨ (frame.length = cfg.bLen ∧ crc16Verified cfg frame = false ∧ validateB cfg now frame k = discarded k .badCrc16)
    ∨ (frame.length = cfg.bLen ∧ crc16Verified cfg frame = true ∧ rangeOk cfg (extractB cfg frame) = false
      ∧ validateB cfg now frame k = discarded k .badRange)
    ∨ (frame.length = cfg.bLen ∧ crc16Verified cfg frame = true ∧ rangeOk cfg (extractB cfg frame) = true
      ∧ validateB cfg now frame k = committed cfg .fixedB now (extractB cfg frame) k) := by
  unfold validateB
  split
  · rename_i h
    exact .inl ⟨h, rfl⟩
  · rename_i h
    have h := not_not.1 h
    cases hc : crc16Verified cfg frame
    · exact .inr (.inl ⟨h, rfl, rfl⟩)
    · cases hr : rangeOk cfg (extractB cfg frame)
      · exact .inr (.inr (.inl ⟨h, rfl, rfl, rfl⟩))
      · exact .inr (.inr (.inr ⟨h, rfl, rfl, rfl⟩))

/-- What VALIDATE_A leaves of the link as it is: everything but the control store. -/
theorem validateA_kept (cfg : Config) (now : Word) (frame : List Byte) (k : Link) :
    (validateA cfg now frame k).link.q = k.q ∧ (validateA cfg now frame k).link.online = k.online
      ∧ (validateA cfg now frame k).link.wphase = k.wphase ∧ (validateA cfg now frame k).link.records = k.records := by
  rcases validateA_cases cfg now frame k with ⟨-, h⟩ | ⟨-, -, h⟩ | ⟨-, -, h⟩ <;> rw [h] <;> exact ⟨rfl, rfl, rfl, rfl⟩

/-- What VALIDATE_B leaves of the link as it is: everything but the control store. -/
theorem validateB_kept (cfg : Config) (now : Word) (frame : List Byte) (k : Link) :
    (validateB cfg now frame k).link.q = k.q ∧ (validateB cfg now frame k).link.online = k.online
      ∧ (validateB cfg now frame k).link.wphase = k.wphase ∧ (validateB cfg now frame k).link.records = k.records := by
  rcases validateB_cases cfg now frame k with ⟨-, h⟩ | ⟨-, -, h⟩ | ⟨-, -, -, h⟩ | ⟨-, -, -, h⟩ <;> rw [h] <;>
    exact ⟨rfl, rfl, rfl, rfl⟩

end Sys2Proof.Machine
end

