-- ==== Sys2Proof/Laws/Memory.lean ====
section
/-! SUPPORT. The laws of byte-addressed spaces: what a read sees of a write, the canonical form, and the bounds. -/

namespace Sys2Proof.Machine

/-! ### The canonical form -/

@[simp] theorem Mem.wfFrom_nil (lo : Nat) : Mem.wfFrom lo [] = true := rfl

@[simp] theorem Mem.wfFrom_cons (lo a : Nat) (v : Byte) (m : Mem) :
    Mem.wfFrom lo ((a, v) :: m) = true ↔ lo ≤ a ∧ v ≠ Mem.unlisted ∧ Mem.wfFrom (a + 1) m = true := by
  simp [Mem.wfFrom, and_assoc]

theorem Mem.wfFrom_mono {lo lo' : Nat} {m : Mem} (hle : lo' ≤ lo) (h : Mem.wfFrom lo m = true) :
    Mem.wfFrom lo' m = true := by
  cases m with
  | nil => rfl
  | cons x m =>
    obtain ⟨b, w⟩ := x
    simp only [Mem.wfFrom_cons] at h ⊢
    exact ⟨hle.trans h.1, h.2⟩

/-- A write at or above the lower bound keeps the canonical form. -/
theorem Mem.wfFrom_write {m : Mem} {lo a : Nat} {v : Byte} (hlo : lo ≤ a) (h : Mem.wfFrom lo m = true) :
    Mem.wfFrom lo (Mem.write m a v) = true := by
  induction m generalizing lo with
  | nil => by_cases hv : v = Mem.unlisted <;> simp [Mem.write, hv, hlo]
  | cons x m ih =>
    obtain ⟨b, w⟩ := x
    obtain ⟨h1, h2, h3⟩ := (Mem.wfFrom_cons ..).1 h
    simp only [Mem.write]
    split
    · split
      · exact h
      · rename_i hab hv
        exact (Mem.wfFrom_cons ..).2 ⟨hlo, hv, (Mem.wfFrom_cons ..).2 ⟨hab, h2, h3⟩⟩
    · split
      · rename_i hab
        subst hab
        split
        · exact Mem.wfFrom_mono (Nat.le_succ_of_le hlo) h3
        · rename_i hv
          exact (Mem.wfFrom_cons ..).2 ⟨hlo, hv, h3⟩
      · exact (Mem.wfFrom_cons ..).2 ⟨h1, h2, ih (by omega) h3⟩

/-- A write of one byte keeps the canonical form. -/
theorem Mem.wf_write {m : Mem} (a : Nat) (v : Byte) (h : m.wf = true) : (Mem.write m a v).wf = true :=
  Mem.wfFrom_write (Nat.zero_le a) h

/-- A write of several bytes keeps the canonical form. -/
theorem Mem.wf_writeAt {m : Mem} (key : Nat → Nat) (a : Nat) (vs : List Byte) (h : m.wf = true) :
    (Mem.writeAt m key a vs).wf = true := by
  induction vs generalizing m a with
  | nil => exact h
  | cons v vs ih => exact ih (a + 1) (Mem.wf_write _ v h)

@[simp] theorem Mem.wf_nil : Mem.wf [] = true := rfl

/-! ### Reads after writes -/

@[simp] theorem Mem.read_nil (a : Nat) : Mem.read [] a = Mem.unlisted := rfl

theorem Mem.read_cons (b : Nat) (v : Byte) (m : Mem) (a : Nat) :
    Mem.read ((b, v) :: m) a = if b = a then v else Mem.read m a := rfl

/-- Below its first cell a canonical space reads as unlisted. -/
theorem Mem.read_of_wfFrom {m : Mem} {lo a : Nat} (h : Mem.wfFrom lo m = true) (ha : a < lo) :
    Mem.read m a = Mem.unlisted := by
  induction m generalizing lo with
  | nil => rfl
  | cons x m ih =>
    obtain ⟨b, w⟩ := x
    obtain ⟨h1, -, h3⟩ := (Mem.wfFrom_cons ..).1 h
    rw [Mem.read_cons, if_neg (by omega)]
    exact ih h3 (by omega)

/-- A write leaves every other address alone, in any space. -/
@[simp] theorem Mem.read_write_other {m : Mem} {a b : Nat} {v : Byte} (hne : b ≠ a) :
    Mem.read (Mem.write m a v) b = Mem.read m b := by
  induction m with
  | nil =>
    by_cases hv : v = Mem.unlisted
    · simp [Mem.write, hv]
    · simp only [Mem.write, if_neg hv, Mem.read_cons, if_neg (Ne.symm hne)]
  | cons x m ih =>
    obtain ⟨c, w⟩ := x
    simp only [Mem.write]
    split
    · split
      · rfl
      · simp only [Mem.read_cons, if_neg (Ne.symm hne)]
    · split
      · rename_i hac
        subst hac
        split <;> simp only [Mem.read_cons, if_neg (Ne.symm hne)]
      · simp only [Mem.read_cons, ih]

/-- In a canonical space a read after a write to the same address gives the byte written. -/
theorem Mem.read_write_same_of_wfFrom {m : Mem} {lo a : Nat} {v : Byte} (h : Mem.wfFrom lo m = true) :
    Mem.read (Mem.write m a v) a = v := by
  induction m generalizing lo with
  | nil => by_cases hv : v = Mem.unlisted <;> simp [Mem.write, hv, Mem.read_cons]
  | cons x m ih =>
    obtain ⟨c, w⟩ := x
    obtain ⟨-, -, h3⟩ := (Mem.wfFrom_cons ..).1 h
    simp only [Mem.write]
    split
    · rename_i hac
      split
      · rename_i hv
        rw [Mem.read_cons, if_neg (by omega), hv]
        exact Mem.read_of_wfFrom h3 (by omega)
      · simp [Mem.read_cons]
    · split
      · rename_i hac
        subst hac
        split
        · rename_i hv
          rw [hv]
          exact Mem.read_of_wfFrom h3 (by omega)
        · simp [Mem.read_cons]
      · rename_i h1 h2
        rw [Mem.read_cons, if_neg (Ne.symm h2)]
        exact ih h3

theorem Mem.read_write_same {m : Mem} (a : Nat) (v : Byte) (h : m.wf = true) :
    Mem.read (Mem.write m a v) a = v := Mem.read_write_same_of_wfFrom h

/-- Writing several bytes leaves every address that is no key of theirs alone. -/
theorem Mem.read_writeAt_other {m : Mem} {key : Nat → Nat} {a b : Nat} {vs : List Byte}
    (hb : ∀ i, i < vs.length → b ≠ key (a + i)) : Mem.read (Mem.writeAt m key a vs) b = Mem.read m b := by
  induction vs generalizing m a with
  | nil => rfl
  | cons v vs ih =>
    rw [Mem.writeAt, ih (fun i hi => by
      rw [show a + 1 + i = a + (i + 1) by omega]; exact hb (i + 1) (by simpa using hi))]
    exact Mem.read_write_other (by simpa using hb 0 (by simp))

/-- After writing several bytes under an injective key, each of them is read back. -/
theorem Mem.read_writeAt_same {m : Mem} {key : Nat → Nat} (hk : Function.Injective key) (h : m.wf = true) {a : Nat}
    {vs : List Byte} {i : Nat} (hi : i < vs.length) : Mem.read (Mem.writeAt m key a vs) (key (a + i)) = vs[i] := by
  induction vs generalizing m a i with
  | nil => simp at hi
  | cons v vs ih =>
    cases i with
    | zero =>
      rw [Mem.writeAt, Mem.read_writeAt_other]
      · simpa using Mem.read_write_same _ v h
      · intro j _ hj
        have := hk hj
        omega
    | succ i =>
      rw [Mem.writeAt, show a + (i + 1) = a + 1 + i by omega]
      exact ih (Mem.wf_write _ v h) (by simpa using hi)

/-- Reading `n` bytes gives `n` bytes. -/
@[simp] theorem Mem.readAt_length (m : Mem) (key : Nat → Nat) (a n : Nat) : (Mem.readAt m key a n).length = n := by
  induction n generalizing a with
  | zero => rfl
  | succ n ih => simp [Mem.readAt, ih]

/-- Byte `i` of a read is the byte at offset `a + i`. -/
@[simp] theorem Mem.readAt_getElem (m : Mem) (key : Nat → Nat) (a n i : Nat) (hi : i < (Mem.readAt m key a n).length) :
    (Mem.readAt m key a n)[i] = Mem.read m (key (a + i)) := by
  induction n generalizing a i with
  | zero => simp [Mem.readAt] at hi
  | succ n ih =>
    cases i with
    | zero => simp [Mem.readAt]
    | succ i =>
      simp only [Mem.readAt, List.getElem_cons_succ]
      rw [ih, show a + 1 + i = a + (i + 1) by omega]

theorem flatKey_injective : Function.Injective flatKey := fun _ _ h => h

theorem recordKey_injective (c : Half) : Function.Injective (recordKey c) := by
  intro a b h
  simp only [recordKey] at h
  omega

/-- Keys of different records differ. -/
theorem recordKey_ne {c d : Half} (h : c ≠ d) (i j : Nat) : recordKey c i ≠ recordKey d j := by
  intro he
  simp only [recordKey] at he
  have hc := c.isLt
  have hd := d.isLt
  exact h (BitVec.eq_of_toNat_eq (by omega))

/-! ### Bounds -/

/-- A write adds no address but its own. -/
theorem Mem.mem_write {m : Mem} {a : Nat} {v : Byte} {x : Host.Cell} (h : x ∈ Mem.write m a v) :
    x ∈ m ∨ x.1 = a := by
  induction m with
  | nil =>
    simp only [Mem.write] at h
    split at h <;> simp_all
  | cons y m ih =>
    obtain ⟨b, w⟩ := y
    simp only [Mem.write] at h
    split at h
    · split at h
      · exact .inl h
      · rcases List.mem_cons.1 h with rfl | h
        · exact .inr rfl
        · exact .inl h
    · split at h
      · rename_i hab
        split at h
        · exact .inl (List.mem_cons_of_mem _ h)
        · rcases List.mem_cons.1 h with rfl | h
          · exact .inr rfl
          · exact .inl (List.mem_cons_of_mem _ h)
      · rcases List.mem_cons.1 h with rfl | h
        · exact .inl List.mem_cons_self
        · exact (ih h).imp_left (List.mem_cons_of_mem _)

/-- Writing several bytes adds no address but their keys. -/
theorem Mem.mem_writeAt {m : Mem} {key : Nat → Nat} {a : Nat} {vs : List Byte} {x : Host.Cell}
    (h : x ∈ Mem.writeAt m key a vs) : x ∈ m ∨ ∃ i, i < vs.length ∧ x.1 = key (a + i) := by
  induction vs generalizing m a with
  | nil => exact .inl h
  | cons v vs ih =>
    rcases ih h with h | ⟨i, hi, hx⟩
    · rcases Mem.mem_write h with h | h
      · exact .inl h
      · exact .inr ⟨0, by simp, by simpa using h⟩
    · exact .inr ⟨i + 1, by simpa using hi, by rw [hx, show a + (i + 1) = a + 1 + i by omega]⟩

end Sys2Proof.Machine
end

