-- ==== Sys2Proof/Laws/Sync.lean ====
section
/-! SUPPORT. The synchronizer: everything one SYNC_BYTE can do to a link (42_stream_sync.md R179). -/

namespace Sys2Proof.Machine

/-- The link after `ACCUM(b)` inside the buffer (R171). -/
def accumulated (b : Byte) (k : Link) : Link :=
  { k with scratch := k.scratch.write (flatKey k.index.toNat) b, index := k.index + 1#16 }

/-- Everything `ACCUM` can do. -/
theorem accum_some_iff {b : Byte} {k k' : Link} :
    k.accum b = some k' ↔ k.index.toNat < Config.maxFrame ∧ k' = accumulated b k := by
  unfold Link.accum accumulated
  split <;> simp_all [eq_comm]

theorem accum_none_iff {b : Byte} {k : Link} : k.accum b = none ↔ Config.maxFrame ≤ k.index.toNat := by
  unfold Link.accum
  split <;> simp_all

/-- Inside the buffer the 16-bit index does not wrap. -/
theorem accumulated_index {b : Byte} {k : Link} (h : k.index.toNat < Config.maxFrame) :
    (accumulated b k).index.toNat = k.index.toNat + 1 := by
  simp only [accumulated, BitVec.toNat_add, BitVec.toNat_ofNat]
  simp only [Config.maxFrame] at h
  omega

/-- Everything `DISPATCH` can do (R178): MARK_ALIVE is called in both cases; a record changes only if its identifier is
enabled. -/
theorem dispatch_cases (cfg : Config) (k : Link) :
    (∃ size, enabledSize cfg k.cmdId = some size
      ∧ dispatch cfg k = { link := { k with lastSeq := k.scratch.read 3, records := k.records.writeAt (recordKey k.cmdId) 0 (k.scratchBytes 7 (min k.declaredLength.toNat size)) }, status := .frameOk, alive := true })
    ∨ (enabledSize cfg k.cmdId = none
      ∧ dispatch cfg k = { link := { k with lastSeq := k.scratch.read 3 }, status := .frameUnsub, alive := true }) := by
  unfold dispatch
  split
  · rename_i size h
    exact .inl ⟨size, h, rfl⟩
  · rename_i h
    exact .inr ⟨h, rfl⟩

/-- The declared length once its high byte is in. -/
def fullLength (b : Byte) (k : Link) : Half := k.declaredLength ||| (b.zeroExtend 16 <<< 8)

/-- The CRC-8 of the four bytes before the header's check byte `b` (R176). -/
def headerMatches (cfg : Config) (b : Byte) (k : Link) : Prop := crc8 cfg ((accumulated b k).scratchBytes 0 4) = b

/-- The CRC-16 of the bytes before the frame's last two, against `LE16` of these (R177). -/
def bodyMatches (cfg : Config) (b : Byte) (k : Link) : Prop :=
  crc16 cfg ((accumulated b k).scratchBytes 0 ((accumulated b k).index.toNat - 2))
    = le16 ((accumulated b k).scratch.read ((accumulated b k).index.toNat - 2))
        ((accumulated b k).scratch.read ((accumulated b k).index.toNat - 1))

/-- Everything one SYNC_BYTE can do that is no fault: a byte discarded in SEEK_SOF, or a byte stored and one row of the
transition table R179. -/
theorem sync_cases {cfg : Config} {b : Byte} {k : Link} {v : Verdict} (h : sync cfg b k = some v) :
    (k.step = .seekSof ∧ b ≠ Config.sof ∧ v = quiet k .syncDiscard)
    ∨ k.index.toNat < Config.maxFrame ∧
      ((k.step = .seekSof ∧ b = Config.sof ∧ v = quiet { accumulated b k with step := .lenLow } .ok)
      ∨ (k.step = .lenLow
        ∧ v = quiet { accumulated b k with declaredLength := b.zeroExtend 16, step := .lenHigh } .ok)
      ∨ (k.step = .lenHigh ∧ Config.maxFrame < (fullLength b k).toNat + Config.overhead
        ∧ v = quiet (accumulated b k).cursorReset .resyncLen)
      ∨ (k.step = .lenHigh ∧ (fullLength b k).toNat + Config.overhead ≤ Config.maxFrame
        ∧ v = quiet { accumulated b k with declaredLength := fullLength b k, step := .seq } .ok)
      ∨ (k.step = .seq ∧ v = quiet { accumulated b k with step := .headerCrc8 } .ok)
      ∨ (k.step = .headerCrc8 ∧ headerMatches cfg b k
        ∧ v = quiet { accumulated b k with step := .bodyCrc16 } .ok)
      ∨ (k.step = .headerCrc8 ∧ ¬ headerMatches cfg b k ∧ v = quiet (accumulated b k).cursorReset .resyncCrc8)
      ∨ (k.step = .bodyCrc16 ∧ (accumulated b k).index.toNat < k.declaredLength.toNat + Config.overhead
        ∧ v = quiet (accumulated b k) .ok)
      ∨ (k.step = .bodyCrc16 ∧ k.declaredLength.toNat + Config.overhead ≤ (accumulated b k).index.toNat
        ∧ ¬ bodyMatches cfg b k ∧ v = quiet (accumulated b k).cursorReset .resyncCrc16)
      ∨ (k.step = .bodyCrc16 ∧ k.declaredLength.toNat + Config.overhead ≤ (accumulated b k).index.toNat
        ∧ bodyMatches cfg b k
        ∧ v = { dispatch cfg (accumulated b k) with link := (dispatch cfg (accumulated b k)).link.cursorReset })) := by
  unfold sync at h
  split at h <;> rename_i hs
  · unfold syncSeek at h
    split at h
    · rename_i hb
      split at h
      · rename_i k' hk
        obtain ⟨hi, rfl⟩ := accum_some_iff.1 hk
        cases h
        exact .inr ⟨hi, .inl ⟨hs, hb, rfl⟩⟩
      · cases h
    · rename_i hb
      cases h
      exact .inl ⟨hs, hb, rfl⟩
  · unfold syncLenLow at h
    split at h
    · rename_i k' hk
      obtain ⟨hi, rfl⟩ := accum_some_iff.1 hk
      cases h
      exact .inr ⟨hi, .inr (.inl ⟨hs, rfl⟩)⟩
    · cases h
  · unfold syncLenHigh at h
    split at h
    · rename_i k' hk
      obtain ⟨hi, rfl⟩ := accum_some_iff.1 hk
      dsimp only at h
      split at h
      · rename_i hlen
        cases h
        exact .inr ⟨hi, .inr (.inr (.inl ⟨hs, hlen, rfl⟩))⟩
      · rename_i hlen
        cases h
        exact .inr ⟨hi, .inr (.inr (.inr (.inl ⟨hs, Nat.le_of_not_lt hlen, rfl⟩)))⟩
    · cases h
  · unfold syncSeq at h
    split at h
    · rename_i k' hk
      obtain ⟨hi, rfl⟩ := accum_some_iff.1 hk
      cases h
      exact .inr ⟨hi, .inr (.inr (.inr (.inr (.inl ⟨hs, rfl⟩))))⟩
    · cases h
  · unfold syncHeader at h
    split at h
    · rename_i k' hk
      obtain ⟨hi, rfl⟩ := accum_some_iff.1 hk
      split at h
      · rename_i hc
        cases h
        exact .inr ⟨hi, .inr (.inr (.inr (.inr (.inr (.inl ⟨hs, hc, rfl⟩)))))⟩
      · rename_i hc
        cases h
        exact .inr ⟨hi, .inr (.inr (.inr (.inr (.inr (.inr (.inl ⟨hs, hc, rfl⟩))))))⟩
    · cases h
  · unfold syncBody at h
    split at h
    · rename_i k' hk
      obtain ⟨hi, rfl⟩ := accum_some_iff.1 hk
      dsimp only at h
      split at h
      · rename_i hlen
        cases h
        exact .inr ⟨hi, .inr (.inr (.inr (.inr (.inr (.inr (.inr (.inl ⟨hs, hlen, rfl⟩)))))))⟩
      · rename_i hlen
        have hlen := Nat.le_of_not_lt hlen
        split at h
        · rename_i hc
          cases h
          exact .inr ⟨hi, .inr (.inr (.inr (.inr (.inr (.inr (.inr (.inr (.inr ⟨hs, hlen, hc, rfl⟩))))))))⟩
        · rename_i hc
          cases h
          exact .inr ⟨hi, .inr (.inr (.inr (.inr (.inr (.inr (.inr (.inr (.inl ⟨hs, hlen, hc, rfl⟩))))))))⟩
    · cases h

/-- One SYNC_BYTE leaves everything of the link but the cursor, `last_seq` and the records as it is. -/
theorem sync_kept {cfg : Config} {b : Byte} {k : Link} {v : Verdict} (h : sync cfg b k = some v) :
    v.link.q = k.q ∧ v.link.online = k.online ∧ v.link.lastAlive = k.lastAlive ∧ v.link.waitStart = k.waitStart
      ∧ v.link.wphase = k.wphase ∧ v.link.rxbuf = k.rxbuf ∧ v.link.ctrl = k.ctrl := by
  rcases sync_cases h with ⟨-, -, rfl⟩ | ⟨-, h⟩
  · exact ⟨rfl, rfl, rfl, rfl, rfl, rfl, rfl⟩
  · rcases h with ⟨-, -, rfl⟩ | ⟨-, rfl⟩ | ⟨-, -, rfl⟩ | ⟨-, -, rfl⟩ | ⟨-, rfl⟩ | ⟨-, -, rfl⟩ | ⟨-, -, rfl⟩ |
      ⟨-, -, rfl⟩ | ⟨-, -, -, rfl⟩ | ⟨-, -, -, rfl⟩
    all_goals first
      | exact ⟨rfl, rfl, rfl, rfl, rfl, rfl, rfl⟩
      | (rcases dispatch_cases cfg (accumulated b k) with ⟨_, -, hd⟩ | ⟨-, hd⟩ <;> rw [hd] <;>
          exact ⟨rfl, rfl, rfl, rfl, rfl, rfl, rfl⟩)

/-- A cursor as R31 and R32 say stores inside the buffer. -/
theorem cursorOk_index {k : Link} (h : cursorOk k) : k.index.toNat < Config.maxFrame := by
  unfold cursorOk at h
  simp only [Config.lMax, Config.maxFrame, Config.overhead] at h ⊢
  split at h <;> omega

/-- A byte is stored outside the buffer only where the index is past its end (R69). -/
theorem sync_none {cfg : Config} {b : Byte} {k : Link} (h : sync cfg b k = none) :
    Config.maxFrame ≤ k.index.toNat := by
  by_contra hlt
  have hs : k.accum b = some (accumulated b k) := accum_some_iff.2 ⟨Nat.lt_of_not_le hlt, rfl⟩
  unfold sync at h
  split at h
  · unfold syncSeek at h
    rw [hs] at h
    split at h <;> cases h
  · unfold syncLenLow at h
    rw [hs] at h
    cases h
  · unfold syncLenHigh at h
    rw [hs] at h
    dsimp only at h
    split at h <;> cases h
  · unfold syncSeq at h
    rw [hs] at h
    cases h
  · unfold syncHeader at h
    rw [hs] at h
    dsimp only at h
    split at h <;> cases h
  · unfold syncBody at h
    rw [hs] at h
    dsimp only at h
    split at h
    · cases h
    · split at h <;> cases h

end Sys2Proof.Machine
end

