-- ==== Sys2Proof/Laws/Exec.lean ====
section
/-! SUPPORT. What a step can do, said once: every operation but RESET leaves the state as it is but for the response, or
moves one link by the elementary moves below and its own bit of the mask with it. -/

namespace Sys2Proof.Machine

/-- The elementary moves of one link, and their sequences. -/
inductive LinkMove (cfg : Config) (now : Word) (c : LinkCfg) : Link → Link → Prop where
  | refl (k : Link) : LinkMove cfg now c k k
  | trans {a b d : Link} : LinkMove cfg now c a b → LinkMove cfg now c b d → LinkMove cfg now c a d
  | enqueue (k : Link) (bytes : List Byte) : fits c k bytes = true → LinkMove cfg now c k (k.enqueue bytes)
  | dequeue (k : Link) : LinkMove cfg now c k (k.dequeue cfg c)
  | receive (k : Link) (draw : Nat) (burst : List Byte) :
      LinkMove cfg now c k (k.receive (bufferSize cfg c.kind) draw burst)
  | alive (k : Link) : LinkMove cfg now c k (k.alive now)
  | dead (k : Link) : LinkMove cfg now c k k.dead
  | wait (k : Link) : LinkMove cfg now c k { k with waitStart := now }
  | sync (k : Link) (b : Byte) (v : Verdict) : Machine.sync cfg b k = some v → LinkMove cfg now c k v.link
  | commit (k : Link) (x : Fields) :
      LinkMove cfg now c k { k with ctrl := k.ctrl.commit cfg c.kind now x }
  | evalSw (k : Link) (n : Nat) (x : Entry) (v : BitVec 2) : k.ctrl.sw[n]? = some x →
      LinkMove cfg now c k (k.withSw (k.ctrl.sw.set n (evalSwitch cfg now v x)))
  | evalBtn (k : Link) (n : Nat) (x : Entry) (v : Bool) : k.ctrl.btn[n]? = some x →
      LinkMove cfg now c k (k.withBtn (k.ctrl.btn.set n (evalButton cfg now v x)))
  | phase (k : Link) (p : Phase) : LinkMove cfg now c k { k with wphase := p }

/-- The mask and the online flag move together: neither changes, or both are set, or both are cleared. -/
def MaskMove (c : LinkCfg) (m m' : Word) (k k' : Link) : Prop :=
  (m' = m ∧ k'.online = k.online) ∨ (m' = setPrio m c.prio ∧ k'.online = true)
    ∨ (m' = clearPrio m c.prio ∧ k'.online = false)

/-- `s` with link `l` moved, the response `r` and `d` free values taken. -/
def Moves (s : State) (l : Byte) (t : State) : Prop :=
  ∃ c k k' m r d, s.HasLink l c k ∧ LinkMove s.cfg s.now c k k' ∧ MaskMove c s.prioMask m k k'
    ∧ t = { s with links := s.links.set l.toNat k', prioMask := m, resp := r, draws := d }

/-- Nothing but the response changes. -/
def Answers (s t : State) : Prop := ∃ r, t = { s with resp := r }

theorem settle_moves {s : State} {l : Byte} {c : LinkCfg} {k : Link} {v : Verdict} (hl : s.HasLink l c k)
    (hm : LinkMove s.cfg s.now c k v.link) (ho : v.link.online = k.online) : Moves s l (s.settle l c v) := by
  rw [State.settle_eq]
  by_cases ha : v.alive
  · exact ⟨c, k, _, _, _, _, hl, hm.trans (.alive _), .inr (.inl ⟨rfl, rfl⟩), by simp only [ha, State.update, if_true]; rfl⟩
  · exact ⟨c, k, _, _, _, _, hl, hm, .inl ⟨rfl, ho⟩, by simp only [ha, State.update, if_false, Bool.false_eq_true]; rfl⟩

theorem checkLive_moves {s : State} {l : Byte} {c : LinkCfg} {lost : Bool} {k k' : Link} (hl : s.HasLink l c k)
    (hm : LinkMove s.cfg s.now c k k') (ho : k'.online = k.online) : Moves s l (s.checkLive l c lost k') := by
  rw [State.checkLive_eq]
  by_cases ha : lost
  · exact ⟨c, k, _, _, _, _, hl, hm.trans (.dead _), .inr (.inr ⟨rfl, rfl⟩), by simp only [ha, State.update, if_true]; rfl⟩
  · exact ⟨c, k, _, _, _, _, hl, hm, .inl ⟨rfl, ho⟩, by simp only [ha, State.update, if_false, Bool.false_eq_true]; rfl⟩

theorem validateA_move (cfg : Config) (now : Word) (c : LinkCfg) (frame : List Byte) (k : Link)
    (hk : c.kind = .fixedA) : LinkMove cfg now c k (validateA cfg now frame k).link := by
  rcases validateA_cases cfg now frame k with ⟨-, h⟩ | ⟨-, -, h⟩ | ⟨-, -, h⟩ <;> rw [h]
  · exact .refl k
  · exact .refl k
  · have := LinkMove.commit (cfg := cfg) (now := now) (c := c) k (extractA frame)
    rwa [hk] at this

theorem validateB_move (cfg : Config) (now : Word) (c : LinkCfg) (frame : List Byte) (k : Link)
    (hk : c.kind = .fixedB) : LinkMove cfg now c k (validateB cfg now frame k).link := by
  rcases validateB_cases cfg now frame k with ⟨-, h⟩ | ⟨-, -, h⟩ | ⟨-, -, -, h⟩ | ⟨-, -, -, h⟩ <;> rw [h]
  · exact .refl k
  · exact .refl k
  · exact .refl k
  · have := LinkMove.commit (cfg := cfg) (now := now) (c := c) k (extractB cfg frame)
    rwa [hk] at this

theorem settleSync_moves {s t : State} {l : Byte} {c : LinkCfg} {k k' : Link} {b : Byte} (hl : s.HasLink l c k)
    (hm : LinkMove s.cfg s.now c k k') (ho : k'.online = k.online)
    (h : s.settleSync l c (sync s.cfg b k') = .next t) : Moves s l t := by
  unfold State.settleSync at h
  split at h
  · rename_i v hv
    cases h
    exact settle_moves hl (hm.trans (.sync k' b v hv)) ((sync_kept hv).2.1.trans ho)
  · cases h

theorem legal_kind {cfg : Config} {l : Byte} {p : LinkCfg → Bool} {s : State} {c : LinkCfg} {k : Link}
    (h : linkIs cfg l p = true) (hs : s.cfg = cfg) (hl : s.HasLink l c k) : p c = true := by
  obtain ⟨d, hd, hp⟩ := linkIs_iff.1 h
  rw [← hs, hl.1] at hd
  cases hd
  exact hp

/-- The shape of every operation that uses a link. -/
theorem onLink_moves {i : Instr} {l : Byte} {s t : State} {body : LinkCfg → Link → Out}
    (hb : ∀ c k, legal s.cfg i = true → s.HasLink l c k → body c k = .next t → Answers s t ∨ Moves s l t)
    (h : onLink i l s body = .next t) : Answers s t ∨ Moves s l t := by
  rcases onLink_cases i l s body with he | ⟨c, k, hi, hl, he⟩
  · rw [he] at h
    cases h
    exact .inl ⟨_, rfl⟩
  · rw [onLink_run hi hl] at h
    exact hb c k hi hl h

/-- WHAT AN OPERATION CAN DO: RESET; or an answer and nothing else; or a move of the link that the operation names. -/
theorem exec_cases {i : Instr} {s t : State} (h : exec i s = .next t) :
    (i = .reset ∧ t = State.resetWith s.cfgIn s.cfgIn s.requests s.now { status := .ok, result := .none } s.draws)
    ∨ Answers s t ∨ ∃ l, i.link? = some l ∧ Moves s l t := by
  have use : ∀ {l : Byte}, i.link? = some l → Answers s t ∨ Moves s l t →
      (i = .reset ∧ t = State.resetWith s.cfgIn s.cfgIn s.requests s.now { status := .ok, result := .none } s.draws)
      ∨ Answers s t ∨ ∃ l, i.link? = some l ∧ Moves s l t := by
    rintro l hl (ha | hm)
    · exact .inr (.inl ha)
    · exact .inr (.inr ⟨l, hl, hm⟩)
  cases i with
  | reset => cases h; exact .inl ⟨rfl, rfl⟩
  | push l bytes =>
    refine use rfl (onLink_moves (fun c k _ hl hb => ?_) h)
    split at hb
    · rename_i hf
      cases hb
      exact .inr ⟨c, k, _, _, _, _, hl, .enqueue k bytes hf, .inl ⟨rfl, rfl⟩, rfl⟩
    · cases hb; exact .inl ⟨_, rfl⟩
  | pop l =>
    refine use rfl (onLink_moves (fun c k _ hl hb => ?_) h)
    split at hb
    · cases hb
      exact .inr ⟨c, k, _, _, _, _, hl, .dequeue k, .inl ⟨rfl, rfl⟩, rfl⟩
    · cases hb; exact .inl ⟨_, rfl⟩
  | popTimeout l =>
    refine use rfl (onLink_moves (fun c k _ hl hb => ?_) h)
    split at hb <;> cases hb <;> exact .inl ⟨_, rfl⟩
  | rx l burst =>
    refine use rfl (onLink_moves (fun c k _ hl hb => ?_) h)
    have hr : LinkMove s.cfg s.now c k (k.receive (bufferSize s.cfg c.kind) s.draws burst) := .receive k _ burst
    dsimp only at hb
    split at hb
    · cases hb
      exact .inr ⟨c, k, _, _, _, _, hl, hr, .inl ⟨rfl, rfl⟩, rfl⟩
    · split at hb
      · cases hb
        exact .inr ⟨c, k, _, _, _, _, hl, hr, .inl ⟨rfl, rfl⟩, rfl⟩
      · split at hb
        · rename_i hf
          cases hb
          exact .inr ⟨c, k, _, _, _, _, hl, hr.trans (.enqueue _ burst hf), .inl ⟨rfl, rfl⟩, rfl⟩
        · cases hb
          exact .inr ⟨c, k, _, _, _, _, hl, hr, .inl ⟨rfl, rfl⟩, rfl⟩
  | admitPrio p => cases h; exact .inr (.inl ⟨_, rfl⟩)
  | markAlive l =>
    refine use rfl (onLink_moves (fun c k _ hl hb => ?_) h)
    cases hb
    exact .inr ⟨c, k, _, _, _, _, hl, .alive k, .inr (.inl ⟨rfl, rfl⟩), rfl⟩
  | liveCheck l =>
    refine use rfl (onLink_moves (fun c k _ hl hb => ?_) h)
    cases hb
    exact .inr (checkLive_moves hl (.refl k) rfl)
  | markTimeout l =>
    refine use rfl (onLink_moves (fun c k _ hl hb => ?_) h)
    cases hb
    exact .inr ⟨c, k, _, _, _, _, hl, .dead k, .inr (.inr ⟨rfl, rfl⟩), rfl⟩
  | activeSrc => cases h; exact .inr (.inl ⟨_, rfl⟩)
  | syncByte l b =>
    exact use rfl (onLink_moves (fun c k _ hl hb => .inr (settleSync_moves hl (.refl k) rfl hb)) h)
  | validateA l frame =>
    refine use rfl (onLink_moves (fun c k hi hl hb => ?_) h)
    have hk : c.kind = .fixedA := by simpa using legal_kind hi rfl hl
    cases hb
    exact .inr (settle_moves hl (validateA_move _ _ c frame k hk) (validateA_kept _ _ frame k).2.1)
  | validateB l frame =>
    refine use rfl (onLink_moves (fun c k hi hl hb => ?_) h)
    have hk : c.kind = .fixedB := by simpa using legal_kind hi rfl hl
    cases hb
    exact .inr (settle_moves hl (validateB_move _ _ c frame k hk) (validateB_kept _ _ frame k).2.1)
  | crc8Verify bytes => cases h; exact .inr (.inl ⟨_, rfl⟩)
  | crc16Verify bytes => cases h; exact .inr (.inl ⟨_, rfl⟩)
  | crc8Append bytes => cases h; exact .inr (.inl ⟨_, rfl⟩)
  | crc16Append bytes => cases h; exact .inr (.inl ⟨_, rfl⟩)
  | evalSw l e v =>
    refine use rfl (onLink_moves (fun c k _ hl hb => ?_) h)
    split at hb
    · rename_i x hx
      cases hb
      exact .inr ⟨c, k, _, _, _, _, hl, .evalSw k _ x v hx, .inl ⟨rfl, rfl⟩, rfl⟩
    · cases hb; exact .inl ⟨_, rfl⟩
  | evalBtn l e v =>
    refine use rfl (onLink_moves (fun c k _ hl hb => ?_) h)
    split at hb
    · rename_i x hx
      cases hb
      exact .inr ⟨c, k, _, _, _, _, hl, .evalBtn k _ x v hx, .inl ⟨rfl, rfl⟩, rfl⟩
    · cases hb; exact .inl ⟨_, rfl⟩
  | wRecv l =>
    refine use rfl (onLink_moves (fun c k _ hl hb => ?_) h)
    split at hb
    · dsimp only at hb
      split at hb
      · rename_i hk
        cases hb
        exact .inr (settle_moves hl ((LinkMove.dequeue k).trans (validateA_move _ _ c _ _ hk))
          (validateA_kept _ _ _ _).2.1)
      · rename_i hk
        cases hb
        exact .inr (settle_moves hl ((LinkMove.dequeue k).trans (validateB_move _ _ c _ _ hk))
          (validateB_kept _ _ _ _).2.1)
      · exact .inr (settleSync_moves hl (.dequeue k) rfl hb)
    · cases hb; exact .inl ⟨_, rfl⟩
  | wLive l =>
    refine use rfl (onLink_moves (fun c k _ hl hb => ?_) h)
    cases hb
    exact .inr (checkLive_moves hl (.wait k) rfl)
  | readCtrl l => exact use rfl (onLink_moves (fun c k _ _ hb => by cases hb; exact .inl ⟨_, rfl⟩) h)
  | readRec l c => exact use rfl (onLink_moves (fun c k _ _ hb => by cases hb; exact .inl ⟨_, rfl⟩) h)
  | readOnline l => exact use rfl (onLink_moves (fun c k _ _ hb => by cases hb; exact .inl ⟨_, rfl⟩) h)

/-! ### A step -/

/-- What `keepPlace` adds to an operation: the worker's phase, and nothing where the operation does not complete. -/
theorem keepPlace_next {i : Instr} {o : Out} {u : State} (h : keepPlace i o = .next u) :
    ∃ t, o = .next t ∧ (u = t ∨ ∃ l p, i.link? = some l ∧ u = t.withPhase l p) := by
  cases o with
  | next t =>
    refine ⟨t, rfl, ?_⟩
    simp only [keepPlace] at h
    split at h
    · rename_i l p hp
      cases h
      refine .inr ⟨l, p, ?_, rfl⟩
      unfold phaseAfter at hp
      split at hp
      all_goals first
        | cases hp
        | (split at hp <;> first | (cases hp; rfl) | cases hp)
    · cases h
      exact .inl rfl
  | fault f => simp [keepPlace] at h
  | refused r => simp [keepPlace] at h

/-- WHAT A STEP CAN DO: idle; answer an illegal word; or execute the decoded operation and keep the worker's place. -/
theorem step_cases {s u : State} (h : step s = .next u) :
    (s.requests = [] ∧ u = s)
    ∨ ∃ r rest, s.requests = r :: rest ∧
      ((∃ e, decode r.word r.data = .error e
        ∧ u = ({ s with requests := rest, now := r.now } : State).respond .illegalOp .none)
      ∨ ∃ i t, decode r.word r.data = .ok i ∧ exec i { s with requests := rest, now := r.now } = .next t
        ∧ (u = t ∨ ∃ l p, i.link? = some l ∧ u = t.withPhase l p)) := by
  unfold step fetch at h
  cases hr : s.requests with
  | nil =>
    rw [hr] at h
    cases h
    exact .inl ⟨rfl, rfl⟩
  | cons r rest =>
    rw [hr] at h
    refine .inr ⟨r, rest, rfl, ?_⟩
    dsimp only [runDecoded] at h
    split at h
    · rename_i i hd
      obtain ⟨t, ht, hu⟩ := keepPlace_next h
      exact .inr ⟨i, t, hd, ht, hu⟩
    · rename_i e hd
      cases h
      exact .inl ⟨e, hd, rfl⟩

/-- A property of links that RESET gives and every elementary move keeps is kept by every step. -/
theorem every_step {p : Config → LinkCfg → Link → Prop}
    (h0 : ∀ cfg, ∀ c ∈ cfg.links, p cfg c (Link.reset cfg c))
    (hm : ∀ cfg now c k k', p cfg c k → LinkMove cfg now c k k' → p cfg c k')
    {s t : State} (hs : s.Every (p s.cfg)) (h : step s = .next t) : t.Every (p t.cfg) := by
  have phase : ∀ (u : State) (l : Byte) (ph : Phase), u.Every (p u.cfg) → (u.withPhase l ph).Every (p u.cfg) := by
    intro u l ph hu
    refine State.every_iff.2 fun n c k hc hk => ?_
    simp only [State.withPhase_links, List.getElem?_modify] at hk
    cases hx : u.links[n]? with
    | none => rw [hx] at hk; cases hk
    | some x =>
      rw [hx] at hk
      have hp := State.every_iff.1 hu n c x hc hx
      simp only [Option.map_eq_map, Option.map_some, Option.some.injEq] at hk
      split at hk
      · subst hk; exact hm _ 0#32 _ _ _ hp (.phase x ph)
      · subst hk; exact hp
  rcases step_cases h with ⟨-, rfl⟩ | ⟨r, rest, -, ⟨e, -, rfl⟩ | ⟨i, u, -, hx, hu⟩⟩
  · exact hs
  · exact hs
  · have key : u.Every (p u.cfg) := by
      rcases exec_cases hx with ⟨rfl, rfl⟩ | ⟨r', rfl⟩ | ⟨l, -, c, k, k', m, r', d, hl, hmv, -, rfl⟩
      · exact State.every_resetWith (h0 _)
      · exact hs
      · exact State.every_set hs hl.1 rfl rfl (hm _ _ _ _ _ (hs.hasLink hl) hmv)
    rcases hu with rfl | ⟨l, ph, -, rfl⟩
    · exact key
    · exact phase _ _ _ key

end Sys2Proof.Machine
end

