-- ==== Sys2Proof/Laws/Agents.lean ====
section
/-! SUPPORT. The agents' steps: whose context and whose link they are, and everything a step of an agent can do
(60_exceptions.md R296). -/

namespace Sys2Proof.Machine

/-- An agent issues only operations of its own context. -/
@[simp] theorem issuer_instr (cfg : Config) (a : AgentOp) : issuer (a.instr cfg) = a.context := by
  cases a with
  | environment => rfl
  | interrupt l op => cases op <;> rfl
  | worker l op => cases op <;> rfl
  | consumer op => cases op <;> rfl
  | checksum who op => cases op <;> rfl

/-- An interrupt agent names no link but its own. -/
theorem interrupt_link {cfg : Config} {l m : Byte} {op : InterruptOp} (h : (op.instr cfg l).link? = some m) : m = l := by
  cases op <;> cases h <;> rfl

/-- A worker names its own link. -/
@[simp] theorem worker_link (l : Byte) (op : WorkerOp) : (op.instr l).link? = some l := by
  cases op <;> rfl

/-- EVERYTHING AN AGENT'S STEP CAN DO: nothing, if the agent is not there; or its operation at `now`, and what keeping the
worker's place adds. -/
theorem agentStep_cases {a : AgentOp} {now : Word} {s u : State} (h : agentStep a now s = .next u) :
    (a.isOf s.cfg = false ∧ u = s)
    ∨ a.isOf s.cfg = true ∧ ∃ t, exec (a.instr s.cfg) { s with now := now } = .next t
      ∧ (u = t ∨ ∃ l p, (a.instr s.cfg).link? = some l ∧ u = t.withPhase l p) := by
  unfold agentStep at h
  split at h
  · rename_i ha
    exact .inr ⟨ha, keepPlace_next h⟩
  · rename_i ha
    cases h
    exact .inl ⟨by simpa using ha, rfl⟩

/-- A worker's turn is a step of that worker, or nothing. -/
theorem workerTurn_cases (l : Byte) (now : Word) (s : State) :
    workerTurn l now s = .next s
    ∨ ∃ c k op, s.HasLink l c k ∧ workerNext s.cfg c now k = some op
      ∧ workerTurn l now s = agentStep (.worker l op) now s := by
  unfold workerTurn
  split
  · rename_i c k hc hk
    split
    · rename_i op hop
      exact .inr ⟨c, k, op, ⟨hc, hk⟩, hop, rfl⟩
    · exact .inl rfl
  · exact .inl rfl

end Sys2Proof.Machine
end

