-- ==== Sys2Proof/Laws/Decode.lean ====
section
/-! SUPPORT. The fields of a packed command word, and the small lemmas of the decoder. -/

namespace Sys2Proof

/-! ### Fields of a packed word -/

@[simp] theorem opField_packWord (op l : Byte) (arg : Half) : opField (packWord op l arg) = op := by
  ext i h
  simp only [opField, packWord, BitVec.getElem_extractLsb', BitVec.getLsbD_append]
  simp [show ¬ (24 + i < 24) by omega, show 24 + i - 24 = i by omega, BitVec.getLsbD_eq_getElem h]

@[simp] theorem linkField_packWord (op l : Byte) (arg : Half) : linkField (packWord op l arg) = l := by
  ext i h
  simp only [linkField, packWord, BitVec.getElem_extractLsb', BitVec.getLsbD_append]
  simp [show 16 + i < 24 by omega, BitVec.getLsbD_eq_getElem h]

@[simp] theorem argField_packWord (op l : Byte) (arg : Half) : argField (packWord op l arg) = arg := by
  ext i h
  simp only [argField, packWord, BitVec.getElem_extractLsb', BitVec.getLsbD_append]
  simp [show i < 24 by omega, h]

@[simp] theorem argHigh_packWord (op l hi lo : Byte) : argHigh (packWord op l (hi ++ lo)) = hi := by
  ext i h
  simp only [argHigh, packWord, BitVec.getElem_extractLsb', BitVec.getLsbD_append]
  simp [show 8 + i < 24 by omega, show 8 + i < 16 by omega, BitVec.getLsbD_eq_getElem h]

@[simp] theorem argLow_packWord (op l hi lo : Byte) : argLow (packWord op l (hi ++ lo)) = lo := by
  ext i h
  simp only [argLow, packWord, BitVec.getElem_extractLsb', BitVec.getLsbD_append]
  simp [show i < 24 by omega, show i < 16 by omega, h]

/-- Every word is packed from its three fields. -/
theorem packWord_fields (w : Word) : packWord (opField w) (linkField w) (argField w) = w := by
  apply BitVec.eq_of_getLsbD_eq
  intro i h
  simp only [packWord, opField, linkField, argField, BitVec.getLsbD_append, BitVec.getLsbD_extractLsb']
  by_cases h1 : i < 16
  · simp [h1, show i < 24 by omega]
  · by_cases h2 : i < 24
    · simp [h1, h2, show 16 + (i - 16) = i by omega, show i - 16 < 8 by omega]
    · simp [h2, show 24 + (i - 24) = i by omega, show i - 24 < 8 by omega]

/-- The `arg` field is its two halves. -/
theorem argField_halves (w : Word) : argHigh w ++ argLow w = argField w := by
  apply BitVec.eq_of_getLsbD_eq
  intro i h
  simp only [argHigh, argLow, argField, BitVec.getLsbD_append, BitVec.getLsbD_extractLsb']
  by_cases h1 : i < 8
  · simp [h1, show i < 16 by omega]
  · simp [h1, show 8 + (i - 8) = i by omega, show i < 16 by omega, show i - 8 < 8 by omega]

/-! ### The formats -/

/-- `hasCount` is the length test. -/
@[simp] theorem hasCount_iff (data : List Byte) (n : Nat) : hasCount data n = true ↔ data.length = n := by
  induction data generalizing n with
  | nil => simp only [hasCount, beq_iff_eq, List.length_nil]; exact eq_comm
  | cons b data ih =>
    cases n with
    | zero => simp [hasCount]
    | succ n => simp [hasCount, ih]

@[simp] theorem noData_nil (d : Decoded) : noData [] d = d := rfl

/-- An operand without data bytes. -/
theorem noData_ok {data : List Byte} {d : Decoded} {i : Instr} (h : noData data d = .ok i) : data = [] ∧ d = .ok i := by
  cases data with
  | nil => exact ⟨rfl, h⟩
  | cons b data => simp [noData] at h

theorem noLink_ok {w : Word} {d : Decoded} {i : Instr} (h : noLink w d = .ok i) : linkField w = 0#8 ∧ d = .ok i := by
  unfold noLink at h
  split at h
  · exact ⟨‹_›, h⟩
  · cases h

theorem formatC0_ok {w : Word} {data : List Byte} {j i : Instr} (h : formatC0 w data j = .ok i) :
    data = [] ∧ argField w = 0#16 ∧ j = i := by
  obtain ⟨hd, h⟩ := noData_ok h
  split at h
  · cases h; exact ⟨hd, ‹_›, rfl⟩
  · cases h

theorem formatCN_ok {w : Word} {data : List Byte} {mk : List Byte → Instr} {i : Instr} (h : formatCN w data mk = .ok i) :
    data.length = (argField w).toNat ∧ mk data = i := by
  unfold formatCN at h
  split at h
  · cases h; exact ⟨(hasCount_iff ..).1 ‹_›, rfl⟩
  · cases h

theorem formatCB_ok {w : Word} {data : List Byte} {mk : Byte → Instr} {i : Instr} (h : formatCB w data mk = .ok i) :
    data = [] ∧ argHigh w = 0#8 ∧ mk (argLow w) = i := by
  obtain ⟨hd, h⟩ := noData_ok h
  split at h
  · cases h; exact ⟨hd, ‹_›, rfl⟩
  · cases h

theorem formatCR_ok {w : Word} {data : List Byte} {mk : Half → Instr} {i : Instr} (h : formatCR w data mk = .ok i) :
    data = [] ∧ mk (argField w) = i := by
  obtain ⟨hd, h⟩ := noData_ok h
  cases h
  exact ⟨hd, rfl⟩

/-- A CP operand read from a byte is written back as that byte. -/
theorem priorityOf_some {b : Byte} {p : Option Prio} (h : priorityOf b = some p) : priorityByte p = b := by
  unfold priorityOf at h
  split at h
  · cases h; exact (‹b = 0xFF#8›).symm
  · split at h
    · cases h
      simp [priorityByte]
    · cases h

@[simp] theorem priorityOf_priorityByte (p : Option Prio) : priorityOf (priorityByte p) = some p := by
  cases p with
  | none => rfl
  | some p =>
    obtain ⟨v, hv⟩ := p
    have h1 : (BitVec.ofNat 8 v).toNat = v := by simp; omega
    have h2 : BitVec.ofNat 8 v ≠ 0xFF#8 := by
      intro h
      have := congrArg BitVec.toNat h
      rw [h1] at this
      simp at this
      omega
    simp [priorityByte, priorityOf, h2]
    omega

end Sys2Proof
end

