-- ==== Sys2Proof/Laws/PerInstr.lean ====
section
/-! SUPPORT. The family `tableRow`: the command word that an instruction encodes to lies in its row of
spec/opcode_table.json, under the row's mask (30_encoding.md R91, R92). -/

namespace Sys2Proof.Laws

/-- The mask of the instruction's row: which bits the format fixes. -/
def tableMask : Instr → Word
  | .reset => 0xFFFFFFFF#32
  | .push _ _ => 0xFF000000#32
  | .pop _ => 0xFF00FFFF#32
  | .popTimeout _ => 0xFF00FFFF#32
  | .rx _ _ => 0xFF000000#32
  | .admitPrio _ => 0xFFFFFF00#32
  | .markAlive _ => 0xFF00FFFF#32
  | .liveCheck _ => 0xFF00FFFF#32
  | .markTimeout _ => 0xFF00FFFF#32
  | .activeSrc => 0xFFFFFFFF#32
  | .syncByte _ _ => 0xFF00FF00#32
  | .validateA _ _ => 0xFF000000#32
  | .validateB _ _ => 0xFF000000#32
  | .crc8Verify _ => 0xFFFF0000#32
  | .crc16Verify _ => 0xFFFF0000#32
  | .crc8Append _ => 0xFFFF0000#32
  | .crc16Append _ => 0xFFFF0000#32
  | .evalSw _ _ _ => 0xFF0000FC#32
  | .evalBtn _ _ _ => 0xFF0000FE#32
  | .wRecv _ => 0xFF00FFFF#32
  | .wLive _ => 0xFF00FFFF#32
  | .readCtrl _ => 0xFF00FFFF#32
  | .readRec _ _ => 0xFF000000#32
  | .readOnline _ => 0xFF00FFFF#32

/-- What those bits are. -/
def tableMatch : Instr → Word
  | .reset => 0x00000000#32
  | .push _ _ => 0x10000000#32
  | .pop _ => 0x11000000#32
  | .popTimeout _ => 0x12000000#32
  | .rx _ _ => 0x13000000#32
  | .admitPrio _ => 0x20000000#32
  | .markAlive _ => 0x21000000#32
  | .liveCheck _ => 0x22000000#32
  | .markTimeout _ => 0x23000000#32
  | .activeSrc => 0x24000000#32
  | .syncByte _ _ => 0x30000000#32
  | .validateA _ _ => 0x40000000#32
  | .validateB _ _ => 0x41000000#32
  | .crc8Verify _ => 0x42000000#32
  | .crc16Verify _ => 0x43000000#32
  | .crc8Append _ => 0x44000000#32
  | .crc16Append _ => 0x45000000#32
  | .evalSw _ _ _ => 0x50000000#32
  | .evalBtn _ _ _ => 0x51000000#32
  | .wRecv _ => 0x60000000#32
  | .wLive _ => 0x61000000#32
  | .readCtrl _ => 0x70000000#32
  | .readRec _ _ => 0x71000000#32
  | .readOnline _ => 0x72000000#32

/-- The fields of a masked word. -/
theorem packWord_and (op l : Byte) (arg : Half) (a b : Byte) (c : Half) :
    packWord op l arg &&& packWord a b c = packWord (op &&& a) (l &&& b) (arg &&& c) := by
  unfold packWord
  rw [BitVec.and_append, BitVec.and_append]

/-- The encoding of the instruction lies in its row. -/
def tableRow.Statement (i : Instr) : Prop := (encode i).1 &&& tableMask i = tableMatch i

/-- A byte under a full mask. -/
theorem and_full (b : Byte) : b &&& 0xFF#8 = b := BitVec.and_allOnes

/-- Format C0 with a link. -/
theorem row_c0 (op l : Byte) : packWord op l 0#16 &&& 0xFF00FFFF#32 = packWord op 0#8 0#16 := by
  rw [show (0xFF00FFFF#32 : Word) = packWord 0xFF#8 0x00#8 0xFFFF#16 by decide, packWord_and, and_full]
  simp

/-- Format CN and CR with a link. -/
theorem row_cn (op l : Byte) (n : Half) : packWord op l n &&& 0xFF000000#32 = packWord op 0#8 0#16 := by
  rw [show (0xFF000000#32 : Word) = packWord 0xFF#8 0x00#8 0x0000#16 by decide, packWord_and, and_full]
  simp

/-- Format CN without a link. -/
theorem row_cn_free (op : Byte) (n : Half) : packWord op 0#8 n &&& 0xFFFF0000#32 = packWord op 0#8 0#16 := by
  rw [show (0xFFFF0000#32 : Word) = packWord 0xFF#8 0xFF#8 0x0000#16 by decide, packWord_and, and_full]
  simp

theorem tableRow.reset : tableRow.Statement .reset := by unfold tableRow.Statement; decide

theorem tableRow.push (l : Byte) (bytes : List Byte) : tableRow.Statement (.push l bytes) :=
  (row_cn _ _ _).trans (show packWord 0x10#8 0#8 0#16 = 0x10000000#32 by decide)

theorem tableRow.pop (l : Byte) : tableRow.Statement (.pop l) :=
  (row_c0 _ _).trans (show packWord 0x11#8 0#8 0#16 = 0x11000000#32 by decide)

theorem tableRow.popTimeout (l : Byte) : tableRow.Statement (.popTimeout l) :=
  (row_c0 _ _).trans (show packWord 0x12#8 0#8 0#16 = 0x12000000#32 by decide)

theorem tableRow.rx (l : Byte) (burst : List Byte) : tableRow.Statement (.rx l burst) :=
  (row_cn _ _ _).trans (show packWord 0x13#8 0#8 0#16 = 0x13000000#32 by decide)

theorem tableRow.admitPrio (p : Option Prio) : tableRow.Statement (.admitPrio p) := by
  show packWord 0x20#8 0#8 (0#8 ++ priorityByte p) &&& 0xFFFFFF00#32 = 0x20000000#32
  rw [show (0xFFFFFF00#32 : Word) = packWord 0xFF#8 0xFF#8 (0xFF#8 ++ 0x00#8) by decide, packWord_and, BitVec.and_append]
  simp only [BitVec.and_zero]
  decide

theorem tableRow.markAlive (l : Byte) : tableRow.Statement (.markAlive l) :=
  (row_c0 _ _).trans (show packWord 0x21#8 0#8 0#16 = 0x21000000#32 by decide)

theorem tableRow.liveCheck (l : Byte) : tableRow.Statement (.liveCheck l) :=
  (row_c0 _ _).trans (show packWord 0x22#8 0#8 0#16 = 0x22000000#32 by decide)

theorem tableRow.markTimeout (l : Byte) : tableRow.Statement (.markTimeout l) :=
  (row_c0 _ _).trans (show packWord 0x23#8 0#8 0#16 = 0x23000000#32 by decide)

theorem tableRow.activeSrc : tableRow.Statement .activeSrc := by unfold tableRow.Statement; decide

theorem tableRow.syncByte (l : Byte) (b : Byte) : tableRow.Statement (.syncByte l b) := by
  show packWord 0x30#8 l (0#8 ++ b) &&& 0xFF00FF00#32 = 0x30000000#32
  rw [show (0xFF00FF00#32 : Word) = packWord 0xFF#8 0x00#8 (0xFF#8 ++ 0x00#8) by decide, packWord_and, BitVec.and_append]
  simp only [BitVec.and_zero]
  decide

theorem tableRow.validateA (l : Byte) (frame : List Byte) : tableRow.Statement (.validateA l frame) :=
  (row_cn _ _ _).trans (show packWord 0x40#8 0#8 0#16 = 0x40000000#32 by decide)

theorem tableRow.validateB (l : Byte) (frame : List Byte) : tableRow.Statement (.validateB l frame) :=
  (row_cn _ _ _).trans (show packWord 0x41#8 0#8 0#16 = 0x41000000#32 by decide)

theorem tableRow.crc8Verify (bytes : List Byte) : tableRow.Statement (.crc8Verify bytes) :=
  (row_cn_free _ _).trans (show packWord 0x42#8 0#8 0#16 = 0x42000000#32 by decide)

theorem tableRow.crc16Verify (bytes : List Byte) : tableRow.Statement (.crc16Verify bytes) :=
  (row_cn_free _ _).trans (show packWord 0x43#8 0#8 0#16 = 0x43000000#32 by decide)

theorem tableRow.crc8Append (bytes : List Byte) : tableRow.Statement (.crc8Append bytes) :=
  (row_cn_free _ _).trans (show packWord 0x44#8 0#8 0#16 = 0x44000000#32 by decide)

theorem tableRow.crc16Append (bytes : List Byte) : tableRow.Statement (.crc16Append bytes) :=
  (row_cn_free _ _).trans (show packWord 0x45#8 0#8 0#16 = 0x45000000#32 by decide)

theorem tableRow.evalSw (l : Byte) (e : Byte) (v : BitVec 2) : tableRow.Statement (.evalSw l e v) := by
  show packWord 0x50#8 l (e ++ (0#6 ++ v)) &&& 0xFF0000FC#32 = 0x50000000#32
  rw [show (0xFF0000FC#32 : Word) = packWord 0xFF#8 0x00#8 (0x00#8 ++ (0x3F#6 ++ 0#2)) by decide, packWord_and,
    BitVec.and_append, BitVec.and_append]
  simp only [BitVec.and_zero]
  decide

theorem tableRow.evalBtn (l : Byte) (e : Byte) (v : Bool) : tableRow.Statement (.evalBtn l e v) := by
  show packWord 0x51#8 l (e ++ (0#7 ++ BitVec.ofBool v)) &&& 0xFF0000FE#32 = 0x51000000#32
  rw [show (0xFF0000FE#32 : Word) = packWord 0xFF#8 0x00#8 (0x00#8 ++ (0x7F#7 ++ 0#1)) by decide, packWord_and,
    BitVec.and_append, BitVec.and_append]
  simp only [BitVec.and_zero]
  decide

theorem tableRow.wRecv (l : Byte) : tableRow.Statement (.wRecv l) :=
  (row_c0 _ _).trans (show packWord 0x60#8 0#8 0#16 = 0x60000000#32 by decide)

theorem tableRow.wLive (l : Byte) : tableRow.Statement (.wLive l) :=
  (row_c0 _ _).trans (show packWord 0x61#8 0#8 0#16 = 0x61000000#32 by decide)

theorem tableRow.readCtrl (l : Byte) : tableRow.Statement (.readCtrl l) :=
  (row_c0 _ _).trans (show packWord 0x70#8 0#8 0#16 = 0x70000000#32 by decide)

theorem tableRow.readRec (l : Byte) (c : Half) : tableRow.Statement (.readRec l c) :=
  (row_cn _ _ _).trans (show packWord 0x71#8 0#8 0#16 = 0x71000000#32 by decide)

theorem tableRow.readOnline (l : Byte) : tableRow.Statement (.readOnline l) :=
  (row_c0 _ _).trans (show packWord 0x72#8 0#8 0#16 = 0x72000000#32 by decide)

end Sys2Proof.Laws
end

