-- ==== Sys2Proof/Tests/Slice0.lean ====
section
/-! SUPPORT. Tests: the smoke test of WellFormed, a word for every operation written out from 30_encoding.md R91 and R92,
one step of every operation with the results that spec/95_test_vectors.md or the rule's own example gives, and for every
statement with hypotheses a state and operands that meet them. -/

namespace Sys2Proof.Tests
open Sys2Proof.Machine

/-! ### WellFormed: an ill-formed term for each check -/

/-- One byte more than `cmd[15:0]` can count. -/
theorem test_wf_refuses_count : countFits (List.replicate 65536 0#8) = false := by
  rw [countFits, List.length_replicate]; decide
theorem test_wf_takes_count : countFits (List.replicate 65535 0#8) = true := by
  rw [countFits, List.length_replicate]; decide
theorem test_wf_refuses_push (l : Byte) : (Instr.push l (List.replicate 65536 0#8)).wf = false := test_wf_refuses_count
theorem test_wf_refuses_rx (l : Byte) : (Instr.rx l (List.replicate 65536 0#8)).wf = false := test_wf_refuses_count
theorem test_wf_refuses_validateA (l : Byte) : (Instr.validateA l (List.replicate 65536 0#8)).wf = false :=
  test_wf_refuses_count
theorem test_wf_refuses_validateB (l : Byte) : (Instr.validateB l (List.replicate 65536 0#8)).wf = false :=
  test_wf_refuses_count
theorem test_wf_refuses_crc8Verify : (Instr.crc8Verify (List.replicate 65536 0#8)).wf = false := test_wf_refuses_count
theorem test_wf_refuses_crc16Verify : (Instr.crc16Verify (List.replicate 65536 0#8)).wf = false := test_wf_refuses_count
theorem test_wf_refuses_crc8Append : (Instr.crc8Append (List.replicate 65536 0#8)).wf = false := test_wf_refuses_count
theorem test_wf_refuses_crc16Append : (Instr.crc16Append (List.replicate 65536 0#8)).wf = false := test_wf_refuses_count

/-! ### Decoding: every operation's word, from the tables of R91 and R92 -/

theorem test_decode_reset : decode 0x00000000#32 [] = .ok .reset := by decide
theorem test_decode_push : decode 0x10010002#32 [0x11#8, 0x22#8] = .ok (.push 1#8 [0x11#8, 0x22#8]) := by decide
theorem test_decode_pop : decode 0x11010000#32 [] = .ok (.pop 1#8) := by decide
theorem test_decode_popTimeout : decode 0x12010000#32 [] = .ok (.popTimeout 1#8) := by decide
theorem test_decode_rx : decode 0x13020001#32 [0xA5#8] = .ok (.rx 2#8 [0xA5#8]) := by decide
theorem test_decode_admit : decode 0x2000001F#32 [] = .ok (.admitPrio (some 31)) := by decide
theorem test_decode_admit_none : decode 0x200000FF#32 [] = .ok (.admitPrio none) := by decide
theorem test_decode_markAlive : decode 0x21010000#32 [] = .ok (.markAlive 1#8) := by decide
theorem test_decode_liveCheck : decode 0x22020000#32 [] = .ok (.liveCheck 2#8) := by decide
theorem test_decode_markTimeout : decode 0x23FF0000#32 [] = .ok (.markTimeout 255#8) := by decide
theorem test_decode_activeSrc : decode 0x24000000#32 [] = .ok .activeSrc := by decide
theorem test_decode_syncByte : decode 0x300200A5#32 [] = .ok (.syncByte 2#8 0xA5#8) := by decide
theorem test_decode_validateA : decode 0x40010001#32 [7#8] = .ok (.validateA 1#8 [7#8]) := by decide
theorem test_decode_validateB : decode 0x41000001#32 [7#8] = .ok (.validateB 0#8 [7#8]) := by decide
theorem test_decode_crc8Verify : decode 0x42000001#32 [0xFF#8] = .ok (.crc8Verify [0xFF#8]) := by decide
theorem test_decode_crc16Verify : decode 0x43000000#32 [] = .ok (.crc16Verify []) := by decide
theorem test_decode_crc8Append : decode 0x44000001#32 [1#8] = .ok (.crc8Append [1#8]) := by decide
theorem test_decode_crc16Append : decode 0x45000001#32 [1#8] = .ok (.crc16Append [1#8]) := by decide
theorem test_decode_evalSw : decode 0x50010103#32 [] = .ok (.evalSw 1#8 1#8 3#2) := by decide
theorem test_decode_evalBtn : decode 0x51001501#32 [] = .ok (.evalBtn 0#8 21#8 true) := by decide
theorem test_decode_wRecv : decode 0x60010000#32 [] = .ok (.wRecv 1#8) := by decide
theorem test_decode_wLive : decode 0x61010000#32 [] = .ok (.wLive 1#8) := by decide
theorem test_decode_readCtrl : decode 0x70010000#32 [] = .ok (.readCtrl 1#8) := by decide
theorem test_decode_readRec : decode 0x71020201#32 [] = .ok (.readRec 2#8 0x0201#16) := by decide
theorem test_decode_readOnline : decode 0x72020000#32 [] = .ok (.readOnline 2#8) := by decide

/-- V50 and R93: words illegal whatever the configuration. -/
theorem test_decode_illegal :
    decode 0x01000000#32 [] = .error .reservedOp ∧ decode 0x11010001#32 [] = .error .nonzeroField
      ∧ decode 0x51010002#32 [] = .error .badLevel ∧ decode 0x20000020#32 [] = .error .badPriority
      ∧ decode 0x20010000#32 [] = .error .nonzeroField ∧ decode 0x13010012#32 [0#8] = .error .dataMismatch
      ∧ decode 0x11010000#32 [0#8] = .error .dataMismatch := by decide

/-- The host's numbering: data bytes count on from bit 32, the first byte lowest; missing bits are 0. -/
theorem test_decodeTableWord :
    decodeTableWord 32 0x11010000 = some (.pop 1#8) ∧ decodeTableWord 32 0x01000000 = none
      ∧ decodeTableWord 48 0xBBAA10010002 = some (.push 1#8 [0xAA#8, 0xBB#8])
      ∧ decodeTableWord 32 0x10010002 = some (.push 1#8 [0#8, 0#8]) := by decide

/-! ### One step of every operation

`bench now n f` is the machine after reset at the clock value `now`, link `n` changed by `f`. -/

/-- The machine after reset with one link changed. -/
def bench (now : Word) (n : Nat) (f : Link → Link) : State :=
  { State.reset with now := now, links := State.reset.links.modify n f }

/-- The status answered. -/
def statusOf : Out → Option Status
  | .next t => some t.resp.status
  | .fault _ => none
  | .refused _ => none

/-- The result answered. -/
def resultOf : Out → Option Result
  | .next t => some t.resp.result
  | .fault _ => none
  | .refused _ => none

/-- Something of link `n` afterwards. -/
def linkOf {α : Type} (o : Out) (n : Nat) (f : Link → α) : Option α :=
  match o with
  | .next t => t.links[n]?.map f
  | .fault _ => none
  | .refused _ => none

/-- The mask afterwards. -/
def maskOf : Out → Option Word
  | .next t => some t.prioMask
  | .fault _ => none
  | .refused _ => none

/-- The protocol A frame of E6: all channels 1024, all else 0. -/
def frameE6 : List Byte := [0x00#8, 0x04#8, 0x20#8, 0x00#8, 0x01#8, 0x08#8] ++ List.replicate 12 0#8

/-- The protocol A frame of V30. -/
def frameV30 : List Byte :=
  [0x6C#8, 0xA1#8, 0x34#8, 0x00#8, 0x01#8, 0xD8#8, 0xFF#8, 0xFF#8, 0x02#8, 0x00#8, 0x00#8, 0x80#8, 0x01#8, 0x00#8,
    0x01#8, 0x80#8, 0xFF#8, 0xFF#8]

/-- The first frame of V31: channel 0 is 363, one below the range. -/
def frameV31 : List Byte :=
  [0x6B#8, 0x01#8, 0x20#8, 0x00#8, 0x01#8, 0x08#8] ++ List.replicate 8 0#8 ++ [1#8, 0#8, 0#8, 0#8]

/-- The protocol B frame of V33. -/
def frameV33 : List Byte :=
  [0xA9#8, 0x53#8, 0x6C#8, 0xA1#8, 0x34#8, 0xFA#8, 0x98#8, 0x68#8, 0xFD#8, 0xFF#8, 0x05#8, 0x00#8, 0xFB#8, 0xFF#8,
    0x00#8, 0x00#8, 0x00#8, 0x80#8, 0x00#8, 0x01#8, 0x29#8, 0xD0#8]

/-- The protocol B frame of V34: V32 with byte 4 damaged. -/
def frameV34 : List Byte :=
  [0xA9#8, 0x53#8, 0x00#8, 0x04#8, 0x00#8, 0x00#8, 0x01#8, 0x08#8] ++ List.replicate 12 0#8 ++ [0x61#8, 0x97#8]

/-- The protocol B frame of V35: channel 0 is 2047, the CRC-16 right. -/
def frameV35 : List Byte :=
  [0xA9#8, 0x53#8, 0xFF#8, 0x07#8, 0x20#8, 0x00#8, 0x01#8, 0x08#8] ++ List.replicate 12 0#8 ++ [0x28#8, 0xFF#8]

/-- The stream link one byte before the end of E7's frame, the last CRC byte missing. -/
def lastByteOf (id0 id1 p0 k0 : Byte) (k : Link) : Link :=
  { k with
    step := .bodyCrc16, index := 9#16, declaredLength := 1#16
    scratch := k.scratch.writeAt flatKey 0 [0xA5#8, 0x01#8, 0x00#8, 0x07#8, 0xEB#8, id0, id1, p0, k0] }

/-- R310, R44: RESET on a live link. -/
theorem test_reset :
    statusOf (exec .reset (bench 9#32 1 (fun k => { k with online := true, q := [1#8] }))) = some .ok
      ∧ linkOf (exec .reset (bench 9#32 1 (fun k => { k with online := true, q := [1#8] }))) 1
          (fun k => (k.online, k.q)) = some (false, []) := by decide +kernel

/-- V1: 54 + 18 = 72 fills the FIFO exactly; the fifth frame is dropped. -/
theorem test_push_fills :
    statusOf (exec (.push 1#8 frameE6) (bench 1#32 1 fun k => { k with q := List.replicate 54 0#8 })) = some .ok
      ∧ linkOf (exec (.push 1#8 frameE6) (bench 1#32 1 fun k => { k with q := List.replicate 54 0#8 })) 1 (·.q.length)
          = some 72 := by decide +kernel
theorem test_push_full :
    statusOf (exec (.push 1#8 frameE6) (bench 1#32 1 fun k => { k with q := List.replicate 72 0#8 })) = some .dropFull
      ∧ linkOf (exec (.push 1#8 frameE6) (bench 1#32 1 fun k => { k with q := List.replicate 72 0#8 })) 1 (·.q.length)
          = some 72 := by decide +kernel

/-- V1: POP returns the oldest frame. V2: 17 bytes are too few. -/
theorem test_pop_oldest :
    resultOf (exec (.pop 1#8) (bench 1#32 1 fun k => { k with q := frameE6 ++ frameV30 })) = some (.bytes frameE6)
      ∧ linkOf (exec (.pop 1#8) (bench 1#32 1 fun k => { k with q := frameE6 ++ frameV30 })) 1 (·.q)
          = some frameV30 := by decide +kernel
theorem test_pop_notReady :
    statusOf (exec (.pop 1#8) (bench 1#32 1 fun k => { k with q := List.replicate 17 0#8 })) = some .notReady := by
  decide +kernel

/-- V6: the deadline is at 140. -/
theorem test_popTimeout_boundary :
    statusOf (exec (.popTimeout 1#8) (bench 139#32 1 fun k => { k with waitStart := 40#32 })) = some .notReady
      ∧ statusOf (exec (.popTimeout 1#8) (bench 140#32 1 fun k => { k with waitStart := 40#32 })) = some .timedOut := by
  decide +kernel
theorem test_popTimeout_data_wins :
    statusOf (exec (.popTimeout 1#8) (bench 200#32 1 fun k => { k with waitStart := 40#32, q := frameE6 }))
      = some .notReady := by decide +kernel

/-- V4, V5: the cheap check comes first, then arbitration. -/
theorem test_rx_checks :
    statusOf (exec (.rx 1#8 (frameE6.take 17)) { bench 1#32 1 id with prioMask := 1#32 }) = some .dropCheap
      ∧ statusOf (exec (.rx 1#8 frameE6) { bench 1#32 1 id with prioMask := 1#32 }) = some .dropArb
      ∧ statusOf (exec (.rx 2#8 []) (bench 1#32 2 id)) = some .dropCheap := by decide +kernel
theorem test_rx_pushes :
    statusOf (exec (.rx 1#8 frameE6) (bench 1#32 1 id)) = some .ok
      ∧ linkOf (exec (.rx 1#8 frameE6) (bench 1#32 1 id)) 1 (·.q) = some frameE6 := by decide +kernel

/-- V10. -/
theorem test_admit :
    resultOf (exec (.admitPrio (some 1)) { State.reset with prioMask := 1#32 }) = some (.bit false)
      ∧ resultOf (exec (.admitPrio (some 2)) { State.reset with prioMask := 4#32 }) = some (.bit true)
      ∧ resultOf (exec (.admitPrio (some 31)) { State.reset with prioMask := 0x7FFFFFFF#32 }) = some (.bit false)
      ∧ resultOf (exec (.admitPrio none) { State.reset with prioMask := 0xFFFFFFFF#32 }) = some (.bit true) := by decide +kernel
theorem test_activeSrc :
    resultOf (exec .activeSrc { State.reset with prioMask := 6#32 }) = some (.source (some 1))
      ∧ resultOf (exec .activeSrc { State.reset with prioMask := 0x80000000#32 }) = some (.source (some 31))
      ∧ resultOf (exec .activeSrc State.reset) = some (.source none) := by decide +kernel

/-- V11, V12. -/
theorem test_markAlive :
    linkOf (exec (.markAlive 1#8) (bench 77#32 1 id)) 1 (fun k => (k.online, k.lastAlive)) = some (true, 77#32)
      ∧ maskOf (exec (.markAlive 1#8) (bench 77#32 1 id)) = some 2#32
      ∧ maskOf (exec (.markAlive 2#8) (bench 5#32 2 id)) = some 0#32 := by decide +kernel
theorem test_liveCheck_boundary :
    statusOf (exec (.liveCheck 1#8) (bench 177#32 1 fun k => { k with lastAlive := 77#32 })) = some .ok
      ∧ statusOf (exec (.liveCheck 1#8) (bench 178#32 1 fun k => { k with lastAlive := 77#32 })) = some .liveLost := by
  decide +kernel

/-- V13: the clock wraps. -/
theorem test_liveCheck_wraps :
    statusOf (exec (.liveCheck 1#8) (bench 0x24#32 1 fun k => { k with lastAlive := 0xFFFFFFC0#32 })) = some .ok
      ∧ statusOf (exec (.liveCheck 1#8) (bench 0x25#32 1 fun k => { k with lastAlive := 0xFFFFFFC0#32 }))
          = some .liveLost := by decide +kernel

/-- R154: the flag and the bit are cleared, `last_alive` stays. -/
theorem test_markTimeout :
    linkOf (exec (.markTimeout 1#8)
        { bench 178#32 1 (fun k => { k with online := true, lastAlive := 77#32 }) with prioMask := 3#32 }) 1
          (fun k => (k.online, k.lastAlive)) = some (false, 77#32)
      ∧ maskOf (exec (.markTimeout 1#8) { bench 178#32 1 id with prioMask := 3#32 }) = some 1#32 := by decide +kernel

/-- V20: the header byte eb is right, ea is not. -/
theorem test_syncByte_header :
    linkOf (exec (.syncByte 2#8 0xEB#8) (bench 10#32 2 fun k => { k with
        step := .headerCrc8, index := 4#16, declaredLength := 1#16
        scratch := [(0, 0xA5#8), (1, 0x01#8), (3, 0x07#8)] })) 2 (fun k => (k.step, k.index)) = some (.bodyCrc16, 5#16)
      ∧ statusOf (exec (.syncByte 2#8 0xEA#8) (bench 10#32 2 fun k => { k with
        step := .headerCrc8, index := 4#16, declaredLength := 1#16
        scratch := [(0, 0xA5#8), (1, 0x01#8), (3, 0x07#8)] })) = some .resyncCrc8 := by decide +kernel

/-- E7: the last byte of the frame dispatches the payload byte 1 into record 2. -/
theorem test_syncByte_dispatch :
    statusOf (exec (.syncByte 2#8 0xE9#8) (bench 300#32 2 (lastByteOf 2#8 0#8 1#8 0x58#8))) = some .frameOk
      ∧ linkOf (exec (.syncByte 2#8 0xE9#8) (bench 300#32 2 (lastByteOf 2#8 0#8 1#8 0x58#8))) 2
          (fun k => (k.records.read (recordKey 2#16 0), k.records.read (recordKey 1#16 0), k.lastSeq, k.online, k.step))
        = some (1#8, 0#8, 7#8, true, .seekSof) := by decide +kernel

/-- V30: every field of protocol A. -/
theorem test_validateA_fields :
    linkOf (exec (.validateA 1#8 frameV30) (bench 60#32 1 id)) 1
        (fun k => ([k.ctrl.chOff0, k.ctrl.chOff1, k.ctrl.chOff2, k.ctrl.chOff3].map BitVec.toInt, k.ctrl.wheelRaw,
          [k.ctrl.mouseX, k.ctrl.mouseY, k.ctrl.mouseZ].map BitVec.toInt))
        = some ([-660, 660, 0, 0], 2047#11, [-1, 2, -32768])
      ∧ linkOf (exec (.validateA 1#8 frameV30) (bench 60#32 1 id)) 1
        (fun k => (k.ctrl.mbtnRaw0, k.ctrl.keyRaw, k.ctrl.sw.map (·.event.bits), k.ctrl.btn.map (·.rawState.toNat)))
        = some (1#8, 0x8001#16, [0b0010001#7, 0b0010011#7],
            [1, 0, 0, 0, 0, 0, 0, 0, 0, 0, 0, 0, 0, 0, 0, 1, 1, 0]) := by decide +kernel

/-- V31: one channel below the range discards the frame. -/
theorem test_validateA_range :
    statusOf (exec (.validateA 1#8 frameV31) (bench 60#32 1 id)) = some .badRange
      ∧ linkOf (exec (.validateA 1#8 frameV31) (bench 60#32 1 id)) 1 (fun k => (k.online, k.ctrl.keyRaw))
        = some (false, 0#16) := by decide +kernel

/-- V33: every field of protocol B. -/
theorem test_validateB_fields :
    linkOf (exec (.validateB 0#8 frameV33) (bench 70#32 0 id)) 0
        (fun k => ([k.ctrl.chOff0, k.ctrl.chOff1, k.ctrl.chOff2, k.ctrl.chOff3].map BitVec.toInt,
          [k.ctrl.mouseX, k.ctrl.mouseY, k.ctrl.mouseZ].map BitVec.toInt, k.ctrl.keyRaw, k.ctrl.sw.map (·.event.bits)))
        = some ([-660, 660, -24, 76], [5, -5, 0], 0x0100#16, [0b0010010#7])
      ∧ linkOf (exec (.validateB 0#8 frameV33) (bench 70#32 0 id)) 0 (fun k => k.ctrl.btn.map (·.rawState.toNat))
        = some [0, 0, 0, 0, 0, 0, 0, 0, 1, 0, 0, 0, 0, 0, 0, 0, 0, 1, 1, 0, 1, 0] := by decide +kernel

/-- V34, V37: a damaged frame, a frame of the wrong length. -/
theorem test_validateB_discards :
    statusOf (exec (.validateB 0#8 frameV34) (bench 70#32 0 id)) = some .badCrc16
      ∧ statusOf (exec (.validateB 0#8 (frameV33.take 21)) (bench 70#32 0 id)) = some .badLen := by decide +kernel

/-- V38. -/
theorem test_crc8Verify :
    resultOf (exec (.crc8Verify [0xA5#8, 0x01#8, 0x00#8, 0x07#8, 0xEB#8]) State.reset) = some (.bit true)
      ∧ resultOf (exec (.crc8Verify [0xFF#8]) State.reset) = some (.bit true)
      ∧ resultOf (exec (.crc8Verify []) State.reset) = some (.bit false) := by decide +kernel
theorem test_crc16Verify :
    resultOf (exec (.crc16Verify [0xA5#8, 0x01#8, 0x00#8, 0x07#8, 0xEB#8, 0x02#8, 0x00#8, 0x01#8, 0x58#8, 0xE9#8])
        State.reset) = some (.bit true)
      ∧ resultOf (exec (.crc16Verify [0#8]) State.reset) = some (.bit false) := by decide +kernel
theorem test_crc8Append :
    resultOf (exec (.crc8Append [0xA5#8, 0x01#8, 0x00#8, 0x07#8]) State.reset)
      = some (.bytes [0xA5#8, 0x01#8, 0x00#8, 0x07#8, 0xEB#8]) := by decide +kernel
theorem test_crc16Append :
    resultOf (exec (.crc16Append [0xA5#8, 0x01#8, 0x00#8, 0x07#8, 0xEB#8, 0x02#8, 0x00#8, 0x01#8]) State.reset)
      = some (.bytes [0xA5#8, 0x01#8, 0x00#8, 0x07#8, 0xEB#8, 0x02#8, 0x00#8, 0x01#8, 0x58#8, 0xE9#8]) := by
  decide +kernel

/-- V48: an accepted change is an EDGE with both codes. -/
theorem test_evalSw_edge :
    linkOf (exec (.evalSw 1#8 0#8 3#2) (bench 30#32 1 id)) 1
      (fun k => k.ctrl.sw[0]?.map fun e => (e.event.bits, e.stableState, e.changeTime))
      = some (some (0b0010011#7, 3#2, 30#32)) := by decide +kernel

/-- V41: the level held exactly at the threshold enters HELD. -/
theorem test_evalBtn_held :
    linkOf (exec (.evalBtn 1#8 0#8 true) (bench 620#32 1 fun k => k.withBtn (k.ctrl.btn.set 0
        { Entry.idle with rawState := 1#2, stableState := 1#2, pressTime := 120#32, changeTime := 100#32 }))) 1
      (fun k => k.ctrl.btn[0]?.map fun e => (e.event.kind, e.holdStart, e.holdTime))
      = some (some (.held, 620#32, 0#32)) := by decide +kernel

/-- V43: window expiry comes before an acceptable rising edge. -/
theorem test_evalBtn_window :
    linkOf (exec (.evalBtn 1#8 0#8 true) (bench 420#32 1 fun k => k.withBtn (k.ctrl.btn.set 0
        { Entry.idle with rawState := 1#2, pending := true, releaseTime := 120#32, changeTime := 400#32 }))) 1
      (fun k => k.ctrl.btn[0]?.map fun e => (e.event.kind, e.stableState, e.pending))
      = some (some (.pressed, 0#2, false)) := by decide +kernel

/-- R261's example, and P2's first byte. -/
theorem test_wRecv_radio :
    statusOf (exec (.wRecv 1#8) (bench 60#32 1 fun k => { k with q := frameE6 })) = some .ok
      ∧ linkOf (exec (.wRecv 1#8) (bench 60#32 1 fun k => { k with q := frameE6 })) 1
          (fun k => (k.q, k.online, k.lastAlive)) = some ([], true, 60#32) := by decide +kernel
theorem test_wRecv_stream :
    statusOf (exec (.wRecv 2#8) (bench 301#32 2 fun k => { k with q := [0x00#8, 0xA5#8] })) = some .syncDiscard
      ∧ linkOf (exec (.wRecv 2#8) (bench 301#32 2 fun k => { k with q := [0x00#8, 0xA5#8] })) 2 (·.q)
          = some [0xA5#8] := by decide +kernel

/-- R264's example. -/
theorem test_wLive :
    statusOf (exec (.wLive 1#8) (bench 161#32 1 fun k => { k with online := true, lastAlive := 60#32 })) = some .liveLost
      ∧ linkOf (exec (.wLive 1#8) (bench 161#32 1 fun k => { k with online := true, lastAlive := 60#32 })) 1
          (fun k => (k.online, k.waitStart)) = some (false, 161#32) := by decide +kernel

/-- R270, R271 (V50: identifier 3 reads 32 zero bytes), R272. -/
theorem test_readCtrl :
    resultOf (exec (.readCtrl 1#8) (bench 1#32 1 fun k => { k with ctrl := { k.ctrl with keyRaw := 5#16 } }))
      = some (.ctrl { (Ctrl.reset Config.refcfg .fixedA) with keyRaw := 5#16 }) := by decide +kernel
theorem test_readRec :
    resultOf (exec (.readRec 2#8 3#16) State.reset) = some (.bytes (List.replicate 32 0#8))
      ∧ resultOf (exec (.readRec 2#8 2#16) (bench 1#32 2 fun k => { k with records := [(2, 9#8)] }))
        = some (.bytes [9#8]) := by decide +kernel
theorem test_readOnline :
    resultOf (exec (.readOnline 2#8) (bench 1#32 2 fun k => { k with online := true })) = some (.bit true) := by decide +kernel

/-- V50: commands illegal under REFCFG. -/
theorem test_illegal_under_refcfg :
    statusOf (step (State.reset.withFetchWord 32 0x11030000)) = some .illegalOp
      ∧ statusOf (step (State.reset.withFetchWord 32 0x30010055)) = some .illegalOp
      ∧ statusOf (step (State.reset.withFetchWord 32 0x50010203)) = some .illegalOp
      ∧ statusOf (step (State.reset.withFetchWord 32 0x51011201)) = some .illegalOp
      ∧ statusOf (step (State.reset.withFetchWord 32 0x51001601)) = some .illegalOp
      ∧ statusOf (step (State.reset.withFetchWord 32 0x71020004)) = some .illegalOp
      ∧ statusOf (step (State.reset.withFetchWord 32 0x70020000)) = some .illegalOp
      ∧ statusOf (step (State.reset.withFetchWord 32 0x51001501)) = some .ok := by decide +kernel

/-- R260: a step keeps the worker's place. -/
theorem test_step_keeps_place :
    linkOf (step ({ bench 60#32 1 (fun k => { k with q := frameE6 }) with
        requests := [{ word := 0x60010000#32, data := [], now := 60#32 }] })) 1 (·.wphase) = some .live := by
  decide +kernel

/-! ### The configuration (R313) and the agents (R296) -/

/-- REFCFG with one more row of the identifier table. -/
def withRow (m : CmdCfg) : Config := { Config.refcfg with cmds := Config.refcfg.cmds ++ [m] }

/-- R313 (g): a row of size 0 is well formed if it is not allowed or its identifier is not below `N_CMD`, and ill formed
otherwise. -/
theorem test_config_record_sizes :
    (withRow { id := 9#16, size := 0, allow := false }).wf = true
      ∧ (withRow { id := 0x0400#16, size := 0, allow := true }).wf = true
      ∧ (withRow { id := 0x03FF#16, size := 0, allow := true }).wf = false := by decide +kernel

/-- R296: ISR(1) asks for the priority of link 1; an agent of link 3, which REFCFG does not have, takes no step. -/
theorem test_agentStep :
    resultOf (agentStep (.interrupt 1#8 .admitOwn) 5#32 { bench 1#32 1 id with prioMask := 1#32 }) = some (.bit false)
      ∧ resultOf (agentStep (.interrupt 1#8 .admitOwn) 5#32 { bench 1#32 1 id with prioMask := 2#32 }) = some (.bit true)
      ∧ agentStep (.worker 3#8 .pop) 5#32 State.reset = .next State.reset :=
  ⟨by decide +kernel, by decide +kernel, rfl⟩

/-- R260, R290: the interrupt receives a frame, W(1) takes it, checks liveness, waits, and times out at the deadline. -/
theorem test_agentRun :
    statusOf (agentRun [(.interrupt 1#8 (.rx frameE6), 60#32), (.worker 1#8 .wRecv, 61#32)] State.reset) = some .ok
      ∧ linkOf (agentRun [(.interrupt 1#8 (.rx frameE6), 60#32), (.worker 1#8 .wRecv, 61#32), (.worker 1#8 .wLive, 62#32)]
          State.reset) 1 (fun k => (k.online, k.q, k.waitStart, k.wphase)) = some (true, [], 62#32, .recv) := by
  decide +kernel

/-! ### Witnesses: for every statement with hypotheses, states and operands that meet them -/

/-- The parameters of REFCFG's links. -/
def cfg0 : LinkCfg := { kind := .fixedB, prio := some 0, fifoCap := 88, liveTimeout := 100, popTimeout := 100 }
def cfg1 : LinkCfg := { kind := .fixedA, prio := some 1, fifoCap := 72, liveTimeout := 100, popTimeout := 100 }
def cfg2 : LinkCfg := { kind := .stream, prio := none, fifoCap := 1024, liveTimeout := 100, popTimeout := 100 }

/-- Link `n` of a bench is what `f` made of it. -/
theorem link0 (now : Word) (f : Link → Link) : (bench now 0 f).HasLink 0#8 cfg0 (f (Link.reset Config.refcfg cfg0)) :=
  ⟨rfl, rfl⟩
theorem link1 (now : Word) (f : Link → Link) : (bench now 1 f).HasLink 1#8 cfg1 (f (Link.reset Config.refcfg cfg1)) :=
  ⟨rfl, rfl⟩
theorem link2 (now : Word) (f : Link → Link) : (bench now 2 f).HasLink 2#8 cfg2 (f (Link.reset Config.refcfg cfg2)) :=
  ⟨rfl, rfl⟩

/-- A state at work: both radio links live, one button held, one switch just moved, a frame one byte before its end, a
record and both buffers written, a request waiting. -/
def busy : State :=
  { State.reset with
    now := 700#32
    prioMask := 3#32
    links :=
      [{ Link.reset Config.refcfg cfg0 with
          q := List.replicate 22 0#8, online := true, lastAlive := 650#32, wphase := .live, rxbuf := [(21, 1#8)] },
        ({ Link.reset Config.refcfg cfg1 with
            q := frameE6, online := true, lastAlive := 600#32, waitStart := 600#32
            ctrl := { Ctrl.reset Config.refcfg .fixedA with
              sw := [{ Entry.idle with
                  rawState := 3#2, stableState := 3#2, event := edgeEvent 0#2 3#2, changeTime := 600#32 },
                Entry.idleSwitch] } }).withBtn
          ((List.replicate 18 Entry.idle).set 0
            { Entry.idle with rawState := 1#2, stableState := 1#2, event := heldEvent, pressTime := 100#32
                              holdStart := 600#32, repeatCount := 1#8 }),
        { lastByteOf 2#8 0#8 1#8 0x58#8 (Link.reset Config.refcfg cfg2) with
          q := [0xE9#8], online := true, lastAlive := 690#32, records := [(2, 9#8), (65537, 4#8)] }]
    requests := [{ word := 0x60020000#32, data := [], now := 701#32 }, { word := 0x01000000#32, data := [], now := 701#32 }] }

theorem busy_shaped : busy.Shaped := by unfold State.Shaped State.Every; decide +kernel
theorem busy_queues : busy.QueuesBounded := by unfold State.QueuesBounded State.Every; decide +kernel
theorem busy_entries : busy.EntriesOk := by unfold State.EntriesOk State.Every switchOk buttonOk; decide +kernel
theorem busy_spaces : busy.SpacesOk := by unfold State.SpacesOk State.Every recordsInside; decide +kernel
theorem busy_mask : busy.MaskOwned := by unfold State.MaskOwned; decide +kernel
theorem busy_flags : busy.FlagsAgree := by unfold State.FlagsAgree State.Every; decide +kernel
theorem busy_cursors : busy.CursorsOk := by
  unfold State.CursorsOk State.Every
  have h : busy.cfg.links.zip busy.links = [(cfg0, busy.links[0]), (cfg1, busy.links[1]), (cfg2, busy.links[2])] := rfl
  rw [h]
  simp only [List.forall_mem_cons]
  exact ⟨rfl, rfl, show 5 ≤ 9 ∧ 9 ≤ 9 ∧ 1 ≤ 247 by decide, by simp⟩
theorem busy_wf : busy.cfg.wf = true ∧ busy.cfgIn.wf = true := by decide +kernel

/-- The busy state takes a step, and its last byte dispatches: premise of every invariant statement. -/
theorem witness_EveryStepKeeps : statusOf (step busy) = some .frameOk := by decide +kernel

theorem witness_DecodeOfEncode : (Instr.evalBtn 255#8 255#8 true).wf = true := rfl
theorem witness_EncodeOfDecode : ∃ (i : Instr), decode 0x51FFFF01#32 [] = .ok i := ⟨_, rfl⟩
theorem witness_StepRunsTheDecodedRequest :
    ∃ (r : Request) (rest : List Request) (i : Instr),
      busy.requests = r :: rest ∧ decode r.word r.data = .ok i := ⟨_, _, .wRecv 2#8, rfl, rfl⟩
theorem witness_AgentStepIsAStep :
    ∃ (a : AgentOp) (r : Request), a.isOf busy.cfg = true ∧ decode r.word r.data = .ok (a.instr busy.cfg) :=
  ⟨.interrupt 1#8 .admitOwn, { word := 0x20000001#32, data := [], now := 701#32 }, rfl, rfl⟩
theorem witness_IllegalWord :
    ∃ (r : Request) (rest : List Request) (e : DecodeError),
      { busy with requests := busy.requests.drop 1 }.requests = r :: rest ∧ decode r.word r.data = .error e :=
  ⟨_, _, .reservedOp, rfl, rfl⟩

/-- A link that does not exist (3 is the first), an operation of another kind, the first entry and the first identifier
that do not exist. -/
theorem witness_IllegalUnderConfiguration :
    (Instr.pop 3#8).link? = some 3#8 ∧ busy.cfg.links[(3#8).toNat]? = none
      ∧ busy.cfg.links[(2#8).toNat]? = some cfg2 ∧ cfg2.kind = .stream ∧ cfg2.kind ≠ .fixedA ∧ cfg2.kind ≠ .fixedB
      ∧ busy.cfg.links[(1#8).toNat]? = some cfg1 ∧ cfg1.kind ≠ .stream
      ∧ switchCount cfg1.kind = (2#8).toNat ∧ buttonCount busy.cfg cfg1.kind = (18#8).toNat
      ∧ busy.cfg.nCmd = (0x0400#16).toNat ∧ ∀ m ∈ busy.cfg.cmds, m.id ≠ 4#16 := by decide +kernel
theorem witness_IllegalOpMeansIllegalCommand :
    statusOf (exec (.pop 3#8) busy) = some .illegalOp ∧ legal busy.cfg (.pop 3#8) = false
      ∧ statusOf (exec (.pop 2#8) busy) = some .ok ∧ legal busy.cfg (.pop 2#8) = true := by decide +kernel

/-- One transaction for each clause: W_RECV, POP_TIMEOUT at its deadline, W_LIVE, and one that moves no phase. -/
theorem witness_WorkerPhase :
    linkOf (step busy) 2 (·.wphase) = some .live ∧ statusOf (step busy) = some .frameOk
      ∧ statusOf (step { busy with requests := [{ word := 0x12010000#32, data := [], now := 0#32 }] }) = some .notReady
      ∧ statusOf (step { bench 0#32 1 id with requests := [{ word := 0x12010000#32, data := [], now := 100#32 }] })
          = some .timedOut
      ∧ linkOf (step { busy with requests := [{ word := 0x61000000#32, data := [], now := 701#32 }] }) 0 (·.wphase)
          = some .recv
      ∧ (busy.links[0]?).map (·.wphase) = some .live := by decide +kernel

/-- A turn of each kind: LIVE, exactly one frame queued, the deadline reached, and one before it. -/
theorem witness_WorkerTurn :
    ∃ (c0 : LinkCfg) (k0 : Link) (c1 : LinkCfg) (k1 : Link) (c : LinkCfg) (k : Link),
      busy.HasLink 0#8 c0 k0 ∧ k0.wphase = .live
      ∧ busy.HasLink 1#8 c1 k1 ∧ k1.wphase = .recv ∧ 18 = k1.q.length ∧ c1.kind = .fixedA
      ∧ State.reset.HasLink 1#8 c k ∧ k.wphase = .recv ∧ k.q.length < 18 ∧ c.popTimeout = ((100#32) - k.waitStart).toNat
      ∧ ((99#32) - k.waitStart).toNat < c.popTimeout ∧ busy.resp.status ≠ .notReady :=
  ⟨cfg0, busy.links[0], cfg1, busy.links[1], cfg1, Link.reset Config.refcfg cfg1, ⟨rfl, rfl⟩, rfl, ⟨rfl, rfl⟩, rfl, rfl, rfl,
    ⟨rfl, rfl⟩, rfl, by decide +kernel, by decide +kernel, by decide +kernel, by decide⟩
theorem witness_WorkerTurn_steps :
    linkOf (workerTurn 0#8 701#32 busy) 0 (·.wphase) = some .recv
      ∧ linkOf (workerTurn 1#8 701#32 busy) 1 (·.wphase) = some .live
      ∧ statusOf (workerTurn 1#8 100#32 State.reset) = some .timedOut
      ∧ workerTurn 1#8 99#32 State.reset = .next State.reset :=
  ⟨by decide +kernel, by decide +kernel, by decide +kernel, rfl⟩

theorem witness_Push :
    ∃ (s : State) (c : LinkCfg) (k : Link) (b : List Byte),
      s.HasLink 1#8 c k ∧ k.q.length + List.length b = c.fifoCap ∧ c.fifoCap < k.q.length + (0#8 :: b).length :=
  ⟨_, _, _, frameE6, link1 1#32 fun k => { k with q := List.replicate 54 0#8 }, by decide +kernel⟩
theorem witness_Pop :
    ∃ (s : State) (c : LinkCfg) (k : Link) (c' : LinkCfg) (k' : Link),
      s.HasLink 1#8 c k ∧ k.q.length = popCount s.cfg c.kind
      ∧ (bench 1#32 1 fun k => { k with q := frameE6.drop 1 }).HasLink 1#8 c' k' ∧ k'.q.length + 1 = popCount s.cfg c'.kind :=
  ⟨_, _, _, _, _, link1 1#32 fun k => { k with q := frameE6 }, by decide +kernel, link1 _ _, by decide +kernel⟩

/-- The deadline reached, one before it, and data. -/
theorem witness_PopTimeout :
    ∃ (s : State) (c : LinkCfg) (k : Link) (c' : LinkCfg) (k' : Link),
      s.HasLink 1#8 c k ∧ k.q.length < 18 ∧ (s.now - k.waitStart).toNat = c.popTimeout
      ∧ (bench 99#32 1 fun k => { k with q := frameE6 }).HasLink 1#8 c' k' ∧ 18 = k'.q.length
      ∧ ((99#32) - k'.waitStart).toNat < c'.popTimeout :=
  ⟨_, _, _, _, _, link1 100#32 id, by decide +kernel, by decide +kernel, link1 _ _, by decide +kernel, by decide +kernel⟩

/-- RX: the hypotheses are definitions of propositions, met by the propositions themselves. Each clause: not cheap (17
bytes), not admitted (bit 0 set), not fitting (55 bytes queued), all three (54), and a burst longer than the buffer. -/
theorem witness_Rx :
    ∃ (c : LinkCfg) (k : Link), ({ bench 1#32 1 (fun k => { k with q := List.replicate 54 0#8 }) with
          prioMask := 2#32 }).HasLink 1#8 c k
      ∧ c.kind = .fixedA ∧ frameE6.length = 18 ∧ (frameE6.take 17).length = 17
      ∧ (∀ p q : Prio, c.prio = some p → q < p → (2#32).getLsbD q.val = false)
      ∧ ¬ (∀ p q : Prio, c.prio = some p → q < p → (1#32).getLsbD q.val = false)
      ∧ k.q.length + frameE6.length = c.fifoCap ∧ c.fifoCap < (0#8 :: k.q).length + frameE6.length
      ∧ k.rxbuf.wf = true ∧ 18 < (0#8 :: frameE6).length :=
  ⟨_, _, ⟨rfl, rfl⟩, rfl, rfl, rfl, by decide +kernel⟩
theorem witness_ByteChannelConserves : ∃ (c : LinkCfg) (k : Link), busy.HasLink 1#8 c k ∧ k.q.length ≤ c.fifoCap :=
  ⟨cfg1, busy.links[1], ⟨rfl, rfl⟩, by decide +kernel⟩
theorem witness_QueuesGrow :
    statusOf (exec (.wRecv 1#8) busy) = some .ok ∧ linkOf (exec (.wRecv 1#8) busy) 1 (·.q) = some []
      ∧ linkOf (exec (.push 1#8 [5#8]) busy) 1 (·.q) = some (frameE6 ++ [5#8]) := by decide +kernel
theorem witness_MarkAlive_MarkTimeout : ∃ (c : LinkCfg) (k : Link), busy.HasLink 1#8 c k ∧ c.prio = some 1 :=
  ⟨cfg1, busy.links[1], ⟨rfl, rfl⟩, rfl⟩
/-- LIVE_CHECK and W_LIVE at the boundary: 100 and 101 ms. -/
theorem witness_LiveCheck_WLive :
    ∃ (c : LinkCfg) (k : Link) (c' : LinkCfg) (k' : Link),
      busy.HasLink 1#8 c k ∧ (busy.now - k.lastAlive).toNat = c.liveTimeout
      ∧ ({ busy with now := 701#32 }).HasLink 1#8 c' k' ∧ c'.liveTimeout + 1 = ((701#32) - k'.lastAlive).toNat :=
  ⟨cfg1, busy.links[1], cfg1, busy.links[1], ⟨rfl, rfl⟩, by decide +kernel, ⟨rfl, rfl⟩, by decide +kernel⟩
theorem witness_LiveHigherPriority :
    ∃ (c : LinkCfg) (k : Link) (p q : Prio),
      busy.HasLink 1#8 c k ∧ c.prio = some p ∧ q < p ∧ busy.prioMask.getLsbD q.val = true :=
  ⟨cfg1, busy.links[1], 1, 0, ⟨rfl, rfl⟩, rfl, by decide +kernel⟩

/-! Synchronizer. -/

theorem witness_SeekSof : ∃ (c : LinkCfg) (k : Link),
      State.reset.HasLink 2#8 c k ∧ c.kind = .stream ∧ k.step = .seekSof ∧ k.index = 0#16 :=
  ⟨cfg2, Link.reset Config.refcfg cfg2, ⟨rfl, rfl⟩, rfl, rfl, rfl⟩
theorem witness_LenLow :
    ∃ (s : State) (c : LinkCfg) (k : Link), s.HasLink 2#8 c k ∧ c.kind = .stream ∧ k.step = .lenLow ∧ k.index = 1#16 :=
  ⟨_, _, _, link2 1#32 fun k => { k with step := .lenLow, index := 1#16, scratch := [(0, 0xA5#8)] }, rfl, rfl, rfl⟩
/-- The low byte f7 with the high byte 0 is the largest length, f8 and 0 the smallest refused, 0 and 1 is 256. -/
theorem witness_LenHigh :
    ∃ (s : State) (c : LinkCfg) (k : Link) (low : Byte),
      s.HasLink 2#8 c k ∧ c.kind = .stream ∧ k.step = .lenHigh ∧ k.index = 2#16
      ∧ k.declaredLength = BitVec.ofNat 16 (BitVec.toNat (w := 8) low) ∧ low.toNat + 256 * (0#8).toNat = 247
      ∧ 247 < (low + 1#8).toNat + 256 * (0#8).toNat ∧ 247 < (0#8).toNat + 256 * (1#8).toNat :=
  ⟨_, _, _, 0xF7#8, link2 1#32 fun k =>
    { k with step := .lenHigh, index := 2#16, declaredLength := 0xF7#16, scratch := [(0, 0xA5#8), (1, 0xF7#8)] },
    by decide +kernel⟩
theorem witness_Seq : ∃ (s : State) (c : LinkCfg) (k : Link),
      s.HasLink 2#8 c k ∧ c.kind = .stream ∧ k.step = .seq ∧ k.index = 3#16 :=
  ⟨_, _, _, link2 1#32 fun k => { k with step := .seq, index := 3#16 }, rfl, rfl, rfl⟩
/-- V20: eb matches the header's CRC-8, ea does not (with the fixture function of REFCFG). -/
theorem witness_HeaderCrc :
    ∃ (s : State) (c : LinkCfg) (k : Link), s.HasLink 2#8 c k ∧ c.kind = .stream ∧ k.step = .headerCrc8 ∧ k.index = 4#16
      ∧ crc8 s.cfg [k.scratch.read 0, k.scratch.read 1, k.scratch.read 2, k.scratch.read 3] = 0xEB#8
      ∧ crc8 s.cfg [k.scratch.read 0, k.scratch.read 1, k.scratch.read 2, k.scratch.read 3] ≠ 0xEA#8 :=
  ⟨_, _, _, link2 1#32 fun k =>
    { k with step := .headerCrc8, index := 4#16, declaredLength := 1#16
             scratch := [(0, 0xA5#8), (1, 0x01#8), (3, 0x07#8)] }, by decide +kernel⟩
/-- The byte before the last of the largest frame: index 254 of 256. -/
theorem witness_BodyBytes :
    ∃ (s : State) (c : LinkCfg) (k : Link),
      s.HasLink 2#8 c k ∧ c.kind = .stream ∧ k.step = .bodyCrc16 ∧ k.index.toNat < 256
      ∧ k.index.toNat + 2 = k.declaredLength.toNat + 9 :=
  ⟨_, _, _, link2 1#32 fun k => { k with step := .bodyCrc16, index := 254#16, declaredLength := 247#16 },
    by decide +kernel⟩
/-- E7's frame before its last byte: e9 completes its CRC-16, e8 does not; its identifier is enabled. -/
theorem witness_LastByte :
    ∃ (s : State) (c : LinkCfg) (k : Link) (bytes : List Byte),
      s.HasLink 2#8 c k ∧ c.kind = .stream ∧ k.step = .bodyCrc16 ∧ k.scratch.wf = true
      ∧ k.declaredLength.toNat = 1 ∧ k.index.toNat = 1 + 8 ∧ bytes = k.scratch.readAt flatKey 0 (1 + 7)
      ∧ crc16 s.cfg bytes = le16 (k.scratch.read (1 + 7)) 0xE9#8
      ∧ crc16 s.cfg bytes ≠ le16 (k.scratch.read (1 + 7)) 0xE8#8
      ∧ enabledSize s.cfg (le16 (k.scratch.read 5) (k.scratch.read 6)) = some 1 :=
  ⟨_, _, _, [0xA5#8, 0x01#8, 0x00#8, 0x07#8, 0xEB#8, 0x02#8, 0x00#8, 0x01#8],
    link2 300#32 (lastByteOf 2#8 0#8 1#8 0x58#8), by decide +kernel⟩
/-- V23: identifier 3 is sized but not enabled. -/
theorem witness_LastByte_unsubscribed :
    ∃ (s : State) (c : LinkCfg) (k : Link) (bytes : List Byte),
      s.HasLink 2#8 c k ∧ k.step = .bodyCrc16 ∧ k.scratch.wf = true ∧ k.declaredLength.toNat = 2
      ∧ k.index.toNat = 2 + 8 ∧ bytes = k.scratch.readAt flatKey 0 (2 + 7)
      ∧ crc16 s.cfg bytes = le16 (k.scratch.read (2 + 7)) 0x1A#8
      ∧ enabledSize s.cfg (le16 (k.scratch.read 5) (k.scratch.read 6)) = none :=
  ⟨_, _, _, [0xA5#8, 0x02#8, 0x00#8, 0x04#8, 0xED#8, 0x03#8, 0x00#8, 0xEE#8, 0xFF#8], link2 9#32 fun k =>
    { k with step := .bodyCrc16, index := 10#16, declaredLength := 2#16
             scratch := k.scratch.writeAt flatKey 0
               [0xA5#8, 0x02#8, 0x00#8, 0x04#8, 0xED#8, 0x03#8, 0x00#8, 0xEE#8, 0xFF#8, 0x83#8] }, by decide +kernel⟩
/-- The last byte e9 of E7's frame matches its CRC-16, e8 does not; its identifier is enabled. -/
theorem witness_SyncTransitions :
    ∃ (c : LinkCfg) (k : Link), busy.HasLink 2#8 c k ∧ c.kind = .stream ∧ cursorOk k ∧ k.scratch.wf = true
      ∧ k.step = .bodyCrc16 ∧ k.index.toNat + 1 = k.declaredLength.toNat + 9
      ∧ crc16 busy.cfg (k.scratch.readAt flatKey 0 (k.declaredLength.toNat + 7))
          = le16 (k.scratch.read (k.declaredLength.toNat + 7)) 0xE9#8
      ∧ crc16 busy.cfg (k.scratch.readAt flatKey 0 (k.declaredLength.toNat + 7))
          ≠ le16 (k.scratch.read (k.declaredLength.toNat + 7)) 0xE8#8
      ∧ (enabledSize busy.cfg (le16 (k.scratch.read 5) (k.scratch.read 6))).isSome = true :=
  ⟨cfg2, busy.links[2], ⟨rfl, rfl⟩, rfl, State.every_iff.1 busy_cursors 2 _ _ rfl rfl, by decide +kernel⟩
/-- V20: at the header byte, eb matches the CRC-8, ea does not. -/
theorem witness_SyncTransitions_header :
    ∃ (s : State) (c : LinkCfg) (k : Link), s.HasLink 2#8 c k ∧ c.kind = .stream ∧ cursorOk k ∧ k.scratch.wf = true
      ∧ k.step = .headerCrc8
      ∧ crc8 s.cfg [k.scratch.read 0, k.scratch.read 1, k.scratch.read 2, k.scratch.read 3] = 0xEB#8
      ∧ crc8 s.cfg [k.scratch.read 0, k.scratch.read 1, k.scratch.read 2, k.scratch.read 3] ≠ 0xEA#8 :=
  ⟨_, _, _, link2 1#32 fun k =>
    { k with step := .headerCrc8, index := 4#16, declaredLength := 1#16
             scratch := [(0, 0xA5#8), (1, 0x01#8), (3, 0x07#8)] }, rfl, ⟨rfl, show 1 ≤ 247 by decide⟩, by decide +kernel⟩
/-- The first offset that does not exist. -/
theorem witness_StoringPastScratch :
    ∃ (s : State) (c : LinkCfg) (k : Link),
      s.HasLink 2#8 c k ∧ c.kind = .stream ∧ 256 ≤ k.index.toNat ∧ (k.step ≠ .seekSof) :=
  ⟨_, _, _, link2 1#32 fun k => { k with step := .bodyCrc16, index := 256#16 }, by decide +kernel⟩
/-- The frame of identifier 2 changes the one byte of its record, from 9 to 1. -/
theorem witness_RecordsChange :
    ∃ k : Link, busy.links[2]? = some k ∧ cursorOk k ∧ k.cmdId = 2#16 ∧ k.declaredLength.toNat = 1
      ∧ enabledSize busy.cfg 2#16 = some 1 ∧ k.records.read (recordKey 2#16 0) = 9#8
      ∧ linkOf (exec (.syncByte 2#8 0xE9#8) busy) 2 (·.records.read (recordKey 2#16 0)) = some 1#8
      ∧ statusOf (exec (.syncByte 2#8 0xE9#8) busy) = some .frameOk
      ∧ statusOf (exec (.syncByte 2#8 0xE8#8) busy) = some .resyncCrc16 :=
  ⟨busy.links[2], rfl, State.every_iff.1 busy_cursors 2 cfg2 _ rfl rfl, by decide +kernel⟩

/-! Fixed frames. -/

theorem witness_ProtocolA : frameV30.length = 18 := rfl
theorem witness_ProtocolB : Config.refcfg.bLen = 22 ∧ frameV33.length = 22 := ⟨rfl, rfl⟩
theorem witness_ChannelOffset : (1024#11).toNat = 1024 := rfl
/-- V30 has channels at both inclusive bounds; V31 one below; 17 bytes are too few. -/
theorem witness_ValidateA :
    ∃ (c : LinkCfg) (k : Link),
      busy.HasLink 1#8 c k ∧ c.kind = .fixedA ∧ frameV30.length = 18 ∧ (frameV30.take 17).length ≠ 18
      ∧ frameV31.length = 18
      ∧ (∀ ch ∈ [(extractA frameV30).ch0, (extractA frameV30).ch1, (extractA frameV30).ch2, (extractA frameV30).ch3],
          busy.cfg.chMin ≤ ch.toNat ∧ ch.toNat ≤ busy.cfg.chMax)
      ∧ (extractA frameV30).ch0.toNat = busy.cfg.chMin ∧ (extractA frameV30).ch1.toNat = busy.cfg.chMax
      ∧ (extractA frameV31).ch0.toNat + 1 = busy.cfg.chMin :=
  ⟨cfg1, busy.links[1], ⟨rfl, rfl⟩, rfl, by decide +kernel⟩
/-- V33 is good and at both bounds, V34 damaged, V35 out of range with a good CRC-16, 21 bytes too few. -/
theorem witness_ValidateB :
    ∃ (c : LinkCfg) (k : Link), busy.HasLink 0#8 c k ∧ c.kind = .fixedB ∧ frameV33.length = busy.cfg.bLen
      ∧ (frameV33.take 21).length ≠ busy.cfg.bLen ∧ crc16Verified busy.cfg frameV33 = true
      ∧ frameV34.length = busy.cfg.bLen ∧ crc16Verified busy.cfg frameV34 = false
      ∧ frameV35.length = busy.cfg.bLen ∧ crc16Verified busy.cfg frameV35 = true
      ∧ busy.cfg.chMax < (extractB busy.cfg frameV35).ch0.toNat
      ∧ ∀ ch ∈ [(extractB busy.cfg frameV33).ch0, (extractB busy.cfg frameV33).ch1, (extractB busy.cfg frameV33).ch2,
          (extractB busy.cfg frameV33).ch3], busy.cfg.chMin ≤ ch.toNat ∧ ch.toNat ≤ busy.cfg.chMax :=
  ⟨cfg0, busy.links[0], ⟨rfl, rfl⟩, rfl, by decide +kernel⟩
theorem witness_FailedValidation :
    statusOf (exec (.validateA 1#8 frameV31) busy) = some .badRange
      ∧ statusOf (exec (.validateB 0#8 frameV34) busy) = some .badCrc16
      ∧ statusOf (exec (.wRecv 0#8) busy) = some .badCrc16
      ∧ ∃ (c : LinkCfg) (k : Link), busy.HasLink 0#8 c k ∧ c.kind ≠ .stream :=
  ⟨by decide +kernel, by decide +kernel, by decide +kernel, cfg0, busy.links[0], ⟨rfl, rfl⟩, by decide⟩
/-- E3: a frame accepted, and accepted again at a later clock value. -/
theorem witness_Replay :
    ∃ (t u : State), exec (.validateA 1#8 frameV30) busy = .next t ∧ t.resp.status = .ok
      ∧ exec (.validateA 1#8 frameV30) { t with now := 800#32 } = .next u
      ∧ (t.links[(1#8).toNat]?).isSome = true ∧ (u.links[(1#8).toNat]?).isSome = true :=
  ⟨_, _, rfl, by decide +kernel, rfl, by decide +kernel, by decide +kernel⟩

/-! Debounce. -/

/-- V48: a new code at debounce 0, accepted; and the stable code. -/
theorem witness_EvalSw :
    ∃ (c : LinkCfg) (k : Link) (x : Entry),
      busy.HasLink 1#8 c k ∧ (1#8).toNat + 1 = switchCount c.kind ∧ k.ctrl.sw[(1#8).toNat]? = some x
      ∧ (3#2) ≠ x.stableState ∧ (3#2) ≠ x.rawState ∧ busy.cfg.tDebounceSw = (busy.now - busy.now).toNat
      ∧ (0#2) = x.stableState :=
  ⟨cfg1, busy.links[1], Entry.idleSwitch, ⟨rfl, rfl⟩, by decide +kernel⟩
/-- One entry for each branch of EVAL_BTN, at the boundary of its condition; `now` is 700. -/
theorem witness_EvalBtn :
    ∃ (c : LinkCfg) (k : Link) (x : Entry),
      busy.HasLink 1#8 c k ∧ (17#8).toNat + 1 = buttonCount busy.cfg c.kind ∧ k.ctrl.btn[(0#8).toNat]? = some x
      ∧ x.event.kind = .held ∧ x.stableState = 1#2 ∧ x.rawState = 1#2 :=
  ⟨cfg1, busy.links[1], _, ⟨rfl, rfl⟩, rfl, rfl, by decide +kernel⟩
theorem witness_EvalBtn_branches :
    (evalButton Config.refcfg 700#32 true { Entry.idle with pending := true, releaseTime := 400#32 }).event.kind = .pressed
      ∧ (evalButton Config.refcfg 700#32 true
          { Entry.idle with rawState := 1#2, changeTime := 680#32, pending := true, releaseTime := 401#32 }).event.kind
          = .rising
      ∧ (evalButton Config.refcfg 700#32 false
          { Entry.idle with stableState := 1#2, changeTime := 680#32 }).event.kind = .falling
      ∧ (evalButton Config.refcfg 700#32 true
          { Entry.idle with rawState := 1#2, stableState := 1#2, pressTime := 200#32 }).event.kind = .held
      ∧ (evalButton Config.refcfg 700#32 true
          { Entry.idle with rawState := 1#2, stableState := 1#2, pressTime := 201#32 }).event.kind = .none := by
  decide +kernel
theorem witness_ButtonTransitions : buttonOk busy.links[1].ctrl.btn[0] :=
  ((busy_entries.hasLink (c := cfg1) (k := busy.links[1]) (l := 1#8) ⟨rfl, rfl⟩).2) _ (by decide +kernel)
/-- V40: a flip of 19 ms, one below the interval. -/
theorem witness_ShortGlitch :
    buttonOk Entry.idle ∧ Entry.idle.stableState = 0#2 ∧ Entry.idle.rawState = 0#2 ∧ Entry.idle.pending = false
      ∧ ((119#32) - (100#32)).toNat + 1 = Config.refcfg.tDebounceBtn := by unfold buttonOk; decide +kernel
/-- V41: exactly the threshold. -/
theorem witness_Held :
    ∃ e : Entry, buttonOk e ∧ e.stableState = 1#2 ∧ e.rawState = 1#2 ∧ e.event.kind ≠ .held
      ∧ Config.refcfg.tHold = ((620#32) - e.pressTime).toNat :=
  ⟨{ Entry.idle with rawState := 1#2, stableState := 1#2, pressTime := 120#32 }, by unfold buttonOk; decide +kernel⟩

/-! Worker and consumers. -/

/-- Exactly one frame queued on each radio link, one byte on the stream link, and one byte less. -/
theorem witness_WRecv :
    ∃ (c0 : LinkCfg) (k0 : Link) (c1 : LinkCfg) (k1 : Link) (c2 : LinkCfg) (k2 : Link),
      busy.HasLink 0#8 c0 k0 ∧ busy.HasLink 1#8 c1 k1 ∧ busy.HasLink 2#8 c2 k2
      ∧ k0.q.length = busy.cfg.bLen ∧ k1.q.length = 18 ∧ k2.q.length = 1 ∧ c2.kind = .stream ∧ k2.index.toNat < 256
      ∧ k2.q.head? = some 0xE9#8 ∧ (k0.q.drop 1).length < busy.cfg.bLen :=
  ⟨cfg0, busy.links[0], cfg1, busy.links[1], cfg2, busy.links[2], ⟨rfl, rfl⟩, ⟨rfl, rfl⟩, ⟨rfl, rfl⟩, by decide +kernel⟩
theorem witness_ConsumerReads :
    ∃ (c : LinkCfg) (k : Link) (c' : LinkCfg) (k' : Link),
      busy.HasLink 2#8 c k ∧ c.kind = .stream ∧ recordSize busy.cfg 0x0201#16 = some 13
      ∧ busy.HasLink 1#8 c' k' ∧ c'.kind ≠ .stream :=
  ⟨cfg2, busy.links[2], cfg1, busy.links[1], ⟨rfl, rfl⟩, rfl, rfl, ⟨rfl, rfl⟩, by decide⟩
theorem witness_UnsubscribedRecord :
    ∃ (c : LinkCfg) (k : Link),
      busy.SpacesOk ∧ busy.HasLink 2#8 c k ∧ c.kind = .stream ∧ recordSize busy.cfg 3#16 = some 32
      ∧ enabledSize busy.cfg 3#16 = none :=
  ⟨cfg2, busy.links[2], busy_spaces, ⟨rfl, rfl⟩, rfl, rfl, rfl⟩
theorem witness_Consumers_Interrupt_Worker :
    issuer (.readCtrl 1#8) = .consumer ∧ statusOf (exec (.readCtrl 1#8) busy) = some .ok
      ∧ issuer (.crc8Verify []) = .any ∧ statusOf (exec (.crc8Verify []) busy) = some .ok
      ∧ issuer (.rx 2#8 [1#8]) = .interrupt ∧ statusOf (exec (.rx 2#8 [1#8]) busy) = some .ok
      ∧ issuer (.wLive 1#8) = .worker ∧ (Instr.wLive 1#8).link? = some 1#8 ∧ busy.cfg.links[(1#8).toNat]? = some cfg1
      ∧ statusOf (exec (.wLive 1#8) busy) = some .ok := by decide +kernel
theorem witness_Agents :
    statusOf (agentStep (.consumer (.readCtrl 1#8)) 701#32 busy) = some .ok
      ∧ statusOf (agentStep (.checksum (.worker 2#8) (.crc8Verify [])) 701#32 busy) = some .ok
      ∧ statusOf (agentStep (.interrupt 2#8 (.rx [1#8])) 701#32 busy) = some .ok
      ∧ statusOf (agentStep (.worker 1#8 .wLive) 702#32 busy) = some .liveLost := by decide +kernel
/-- A RESET with another configuration presented than latched, and a request of another operation. -/
theorem witness_Configuration :
    (∃ r rest, ({ busy with
        cfgIn := { Config.refcfg with nFn := 0 }
        requests := [{ word := 0#32, data := [], now := 1#32 }] }).requests = r :: rest
          ∧ decode r.word r.data = .ok .reset)
      ∧ { Config.refcfg with nFn := 0 } ≠ busy.cfg
      ∧ ¬ ∃ r rest, busy.requests = r :: rest ∧ decode r.word r.data = .ok .reset :=
  ⟨⟨_, _, rfl, rfl⟩, by decide +kernel, fun ⟨_, _, h, hd⟩ => by cases h; cases hd⟩

end Sys2Proof.Tests
end

section
/-! PROOF. The invariants of the state (10_state.md): each is a property of one link, or of the mask, that a link has at
reset and that every elementary move keeps, so that every step keeps it. -/

namespace Sys2Proof.Machine

/-- A property of states that RESET gives, that the environment's side of the interface and the workers' places leave
alone, and that every move of a link keeps, is kept by every step. -/
theorem step_keeps {P : State → Prop} {s t : State}
    (hreset : ∀ (cfg d : Config) (rs : List Request) (now : Word) (r : Response) (f : Nat),
      P (State.resetWith cfg d rs now r f))
    (henv : ∀ (s : State) (rs : List Request) (now : Word) (r : Response), P s →
      P { s with requests := rs, now := now, resp := r })
    (hphase : ∀ (s : State) (l : Byte) (p : Phase), P s → P (s.withPhase l p))
    (hmove : ∀ (s t : State) (l : Byte), P s → Moves s l t → P t)
    (hs : P s) (h : step s = .next t) : P t := by
  rcases step_cases h with ⟨-, rfl⟩ | ⟨r, rest, -, ⟨e, -, rfl⟩ | ⟨i, u, -, hx, hu⟩⟩
  · exact hs
  · exact henv s rest r.now _ hs
  · have key : P u := by
      rcases exec_cases hx with ⟨-, rfl⟩ | ⟨_, rfl⟩ | ⟨l, -, hm⟩
      · exact hreset ..
      · exact henv s rest r.now _ hs
      · exact hmove _ _ l (henv s rest r.now _ hs) hm
    rcases hu with rfl | ⟨l, p, -, rfl⟩
    · exact key
    · exact hphase u l p key

/-- The step of a request whose word decodes. -/
theorem step_of_request {s : State} {r : Request} {rest : List Request} {i : Instr} (hr : s.requests = r :: rest)
    (hd : decode r.word r.data = .ok i) : step s = keepPlace i (exec i { s with requests := rest, now := r.now }) := by
  simp only [step, fetch, hr, hd, runDecoded]

/-! ### Shape (R20, R37) -/

/-- A control store with the entries of R37. -/
def Ctrl.Sized (cfg : Config) (kind : Kind) (x : Ctrl) : Prop :=
  x.sw.length = switchCount kind ∧ x.btn.length = buttonCount cfg kind

theorem State.shaped_iff {s : State} :
    s.Shaped ↔ s.links.length = s.cfg.links.length ∧ s.Every fun c k => k.ctrl.Sized s.cfg c.kind := Iff.rfl

theorem Ctrl.sized_reset (cfg : Config) (kind : Kind) : (Ctrl.reset cfg kind).Sized cfg kind :=
  ⟨List.length_replicate, List.length_replicate⟩

theorem Ctrl.Sized.commit {cfg : Config} {kind : Kind} {x : Ctrl} (h : x.Sized cfg kind) (now : Word) (f : Fields) :
    (x.commit cfg kind now f).Sized cfg kind :=
  ⟨by simpa using h.1, by simpa using h.2⟩

/-- Every elementary move keeps the number of entries. -/
theorem LinkMove.keeps_sized {cfg : Config} {now : Word} {c : LinkCfg} {k k' : Link} (hm : LinkMove cfg now c k k') :
    k.ctrl.Sized cfg c.kind → k'.ctrl.Sized cfg c.kind := by
  induction hm with
  | trans _ _ ihab ihbd => exact ihbd ∘ ihab
  | sync k b v hv =>
    obtain ⟨-, -, -, -, -, -, hctrl⟩ := sync_kept hv
    rw [hctrl]
    exact id
  | commit k x => exact fun h => h.commit now x
  | evalSw k n x v _ => exact fun h => ⟨by simpa using h.1, h.2⟩
  | evalBtn k n x v _ => exact fun h => ⟨h.1, by simpa using h.2⟩
  | _ => exact id

/-- Every step keeps one link state for each link of the configuration. -/
theorem step_links_length {s t : State} (hs : s.links.length = s.cfg.links.length) (h : step s = .next t) :
    t.links.length = t.cfg.links.length := by
  refine step_keeps (P := fun s => s.links.length = s.cfg.links.length) (fun _ _ _ _ _ _ => ?_) (fun _ _ _ _ hs => hs)
    (fun _ _ _ hs => ?_) (fun s t l hs hm => ?_) hs h
  · simp
  · simpa using hs
  · obtain ⟨c, k, k', m, r, d, -, -, -, rfl⟩ := hm
    simpa using hs

/-- Settles O54: the number of links is kept, and every move of a link keeps the number of its entries. -/
theorem everyStepKeepsTheShape : Obligations.EveryStepKeepsTheShape := by
  intro s t hs h
  obtain ⟨hlen, hsized⟩ := State.shaped_iff.1 hs
  exact State.shaped_iff.2 ⟨step_links_length hlen h,
    every_step (p := fun cfg c k => k.ctrl.Sized cfg c.kind) (fun cfg c _ => Ctrl.sized_reset cfg c.kind)
      (fun _ _ _ _ _ hk hm => hm.keeps_sized hk) hsized h⟩

/-! ### Queues (R26, R137) -/

/-- Every elementary move keeps the queue within its capacity: only a burst that fits is appended. -/
theorem LinkMove.keeps_queueBounded {cfg : Config} {now : Word} {c : LinkCfg} {k k' : Link}
    (hm : LinkMove cfg now c k k') : k.q.length ≤ c.fifoCap → k'.q.length ≤ c.fifoCap := by
  induction hm with
  | trans _ _ ihab ihbd => exact ihbd ∘ ihab
  | enqueue k bytes hfits => exact fun _ => by simpa [fits] using hfits
  | dequeue k => exact fun h => by simpa using Nat.le_add_right_of_le h
  | sync k b v hv => rw [(sync_kept hv).1]; exact id
  | _ => exact id

/-- Settles O55: PUSH and RX append only a burst that fits. -/
theorem everyStepKeepsQueuesBounded : Obligations.EveryStepKeepsQueuesBounded := fun _ _ hs h =>
  every_step (p := fun _ c k => k.q.length ≤ c.fifoCap) (fun _ c _ => Nat.zero_le c.fifoCap)
    (fun _ _ _ _ _ hk hm => hm.keeps_queueBounded hk) hs h

/-! ### Cursors (R31, R32) -/

theorem cursorOk_cursorReset (k : Link) : cursorOk k.cursorReset := by simp [cursorOk]

theorem cursorOk_reset (cfg : Config) (c : LinkCfg) : cursorOk (Link.reset cfg c) := by simp [cursorOk]

/-- One SYNC_BYTE keeps the cursor as R31 and R32 say, row by row of R179: the length check of R174 bounds
`declared_length`, and with it `index` in the body. -/
theorem cursorOk_sync {cfg : Config} {b : Byte} {k : Link} {v : Verdict} (hk : cursorOk k) (h : sync cfg b k = some v) :
    cursorOk v.link := by
  rcases sync_cases h with ⟨-, -, rfl⟩ | ⟨hlt, h⟩
  · exact hk
  · have hidx := accumulated_index (b := b) hlt
    rcases h with ⟨hs, -, rfl⟩ | ⟨hs, rfl⟩ | ⟨-, -, rfl⟩ | ⟨hs, hlen, rfl⟩ | ⟨hs, rfl⟩ | ⟨hs, -, rfl⟩ |
      ⟨-, -, rfl⟩ | ⟨hs, hlen, rfl⟩ | ⟨-, -, -, rfl⟩ | ⟨-, -, -, rfl⟩
    · simp only [cursorOk, hs, quiet_link] at hk ⊢
      omega
    · simp only [cursorOk, hs, quiet_link] at hk ⊢
      have hb := b.isLt
      simp only [BitVec.truncate_eq_setWidth, BitVec.toNat_setWidth]
      omega
    · exact cursorOk_cursorReset _
    · simp only [cursorOk, hs, quiet_link, Config.lMax] at hk ⊢
      omega
    · simp only [cursorOk, hs, quiet_link] at hk ⊢
      exact ⟨by omega, hk.2⟩
    · simp only [cursorOk, hs, quiet_link] at hk ⊢
      exact ⟨by omega, by omega, hk.2⟩
    · exact cursorOk_cursorReset _
    · have hstep : (accumulated b k).step = .bodyCrc16 := hs
      have hdl : (accumulated b k).declaredLength = k.declaredLength := rfl
      simp only [cursorOk, hs, hstep, hdl, quiet_link, Config.overhead] at hk hlen ⊢
      omega
    · exact cursorOk_cursorReset _
    · exact cursorOk_cursorReset _

/-- Every elementary move keeps the cursor as R31 and R32 say: only SYNC_BYTE touches it. -/
theorem LinkMove.keeps_cursorOk {cfg : Config} {now : Word} {c : LinkCfg} {k k' : Link} (hm : LinkMove cfg now c k k') :
    cursorOk k → cursorOk k' := by
  induction hm with
  | trans _ _ ihab ihbd => exact ihbd ∘ ihab
  | sync k b v hv => exact fun h => cursorOk_sync h hv
  | _ => exact id

/-- Settles O56, by the rows of R179. -/
theorem everyStepKeepsCursors : Obligations.EveryStepKeepsCursors := fun _ _ hs h =>
  every_step (p := fun _ _ k => cursorOk k) (fun cfg c _ => cursorOk_reset cfg c)
    (fun _ _ _ _ _ hk hm => hm.keeps_cursorOk hk) hs h

/-! ### Entries (R38, R39, R122) -/

/-- What R38 and R39 say of the entries of a control store. -/
def Ctrl.EntriesOk (x : Ctrl) : Prop := (∀ e ∈ x.sw, switchOk e) ∧ ∀ e ∈ x.btn, buttonOk e

theorem State.entriesOk_iff {s : State} : s.EntriesOk ↔ s.Every fun _ k => k.ctrl.EntriesOk := Iff.rfl

theorem switchOk_idleSwitch : switchOk Entry.idleSwitch := ⟨.inl rfl, rfl, rfl, rfl, rfl, rfl, rfl⟩

theorem buttonOk_idle : buttonOk Entry.idle := ⟨.inl rfl, nofun, nofun, rfl, rfl⟩

theorem Ctrl.entriesOk_reset (cfg : Config) (kind : Kind) : (Ctrl.reset cfg kind).EntriesOk :=
  ⟨fun _ he => List.eq_of_mem_replicate he ▸ switchOk_idleSwitch,
    fun _ he => List.eq_of_mem_replicate he ▸ buttonOk_idle⟩

/-- R38: an accepted code is an EDGE to it from another code, and the fields of buttons are not used. -/
theorem switchOk_evalSwitch (cfg : Config) (now : Word) (v : BitVec 2) {e : Entry} (h : switchOk e) :
    switchOk (evalSwitch cfg now v e) := by
  obtain ⟨-, hunused⟩ := h
  rcases evalSwitch_cases cfg now v e with ⟨hacc, he⟩ | ⟨-, he⟩ <;> rw [he]
  · have hne : v ≠ e.stableState := by simpa using ((accepts_iff _ _ _).1 hacc).1
    exact ⟨.inr ⟨rfl, hne.symm, rfl⟩, by simpa using hunused⟩
  · exact ⟨.inl rfl, by simpa using hunused⟩

/-- A presented level leaves an entry as R39 says. -/
theorem buttonOk_present (now : Word) (v : Bool) {e : Entry} (h : buttonOk e) :
    buttonOk (e.present (levelCode v) now) := by
  obtain ⟨hevent, hpending, hheld, -, hstable⟩ := h
  exact ⟨by simpa using hevent, by simpa using hpending, by simpa using hheld, by simpa using levelCode_bit1 v,
    by simpa using hstable⟩

/-- R39 after each of the six branches of R233. -/
theorem buttonOk_classify (cfg : Config) (now : Word) (inHold : Bool) {e : Entry} (h : buttonOk e) :
    buttonOk (e.classify cfg now inHold) := by
  obtain ⟨-, hpending, -, hraw, hstable⟩ := h
  rcases classify_cases cfg now inHold e with ⟨-, he⟩ | ⟨-, -, he⟩ | ⟨-, -, he⟩ | ⟨hpressed, -, he⟩ |
    ⟨hpressed, -, he⟩ | he <;> rw [he]
  · exact ⟨.inr (.inr (.inr (.inl rfl))), nofun, nofun, hraw, hstable⟩
  · exact ⟨.inr (.inl rfl), nofun, nofun, hraw, by simp⟩
  · exact ⟨.inr (.inr (.inl rfl)), fun _ => rfl, nofun, hraw, by simp⟩
  · exact ⟨.inr (.inr (.inr (.inr rfl))), hpending, fun _ => hpressed, hraw, hstable⟩
  · exact ⟨.inr (.inr (.inr (.inr rfl))), hpending, fun _ => hpressed, hraw, hstable⟩
  · exact ⟨.inl rfl, hpending, nofun, hraw, hstable⟩

theorem buttonOk_evalButton (cfg : Config) (now : Word) (v : Bool) {e : Entry} (h : buttonOk e) :
    buttonOk (evalButton cfg now v e) := buttonOk_classify cfg now _ (buttonOk_present now v h)

/-- A property that every evaluation keeps is kept of all entries evaluated in order. -/
theorem forall_mem_evalEach {α : Type} {f : α → Entry → Entry} {p : Entry → Prop} (hf : ∀ a e, p e → p (f a e))
    {as : List α} {es : List Entry} (h : ∀ e ∈ es, p e) : ∀ e ∈ evalEach f as es, p e := by
  intro x hx
  rcases mem_evalEach hx with hx | ⟨a, e, he, rfl⟩
  · exact h x hx
  · exact hf a e (h e he)

/-- A property of all entries is kept when one of them is replaced by an entry that has it. -/
theorem forall_mem_set {p : Entry → Prop} {es : List Entry} {n : Nat} {x : Entry} (h : ∀ e ∈ es, p e) (hx : p x) :
    ∀ e ∈ es.set n x, p e := fun e he => (List.mem_or_eq_of_mem_set he).elim (h e) (fun heq => heq ▸ hx)

theorem Ctrl.EntriesOk.commit {x : Ctrl} (h : x.EntriesOk) (cfg : Config) (kind : Kind) (now : Word) (f : Fields) :
    (x.commit cfg kind now f).EntriesOk :=
  ⟨forall_mem_evalEach (fun v _ => switchOk_evalSwitch cfg now v) h.1,
    forall_mem_evalEach (fun v _ => buttonOk_evalButton cfg now v) h.2⟩

/-- Every elementary move keeps the entries as R38 and R39 say. -/
theorem LinkMove.keeps_entriesOk {cfg : Config} {now : Word} {c : LinkCfg} {k k' : Link}
    (hm : LinkMove cfg now c k k') : k.ctrl.EntriesOk → k'.ctrl.EntriesOk := by
  induction hm with
  | trans _ _ ihab ihbd => exact ihbd ∘ ihab
  | sync k b v hv =>
    obtain ⟨-, -, -, -, -, -, hctrl⟩ := sync_kept hv
    rw [hctrl]
    exact id
  | commit k x => exact fun h => h.commit _ _ _ x
  | evalSw k n x v hx =>
    exact fun h => ⟨forall_mem_set h.1 (switchOk_evalSwitch _ _ v (h.1 x (List.mem_of_getElem? hx))), h.2⟩
  | evalBtn k n x v hx =>
    exact fun h => ⟨h.1, forall_mem_set h.2 (buttonOk_evalButton _ _ v (h.2 x (List.mem_of_getElem? hx)))⟩
  | _ => exact id

/-- Settles O57, by the branches of one evaluation. -/
theorem everyStepKeepsEntries : Obligations.EveryStepKeepsEntries := fun _ _ hs h =>
  every_step (p := fun _ _ k => k.ctrl.EntriesOk) (fun cfg c _ => Ctrl.entriesOk_reset cfg c.kind)
    (fun _ _ _ _ _ hk hm => hm.keeps_entriesOk hk) hs h

/-! ### Spaces (R60, R69) -/

/-- A space in canonical form whose listed addresses are all in `d`. -/
def Mem.Within (d : Nat → Prop) (m : Mem) : Prop := m.wf = true ∧ ∀ x ∈ m, d x.1

theorem Mem.within_nil (d : Nat → Prop) : Mem.Within d [] := ⟨rfl, nofun⟩

theorem Mem.Within.write {d : Nat → Prop} {m : Mem} (h : m.Within d) {a : Nat} (v : Byte) (ha : d a) :
    (m.write a v).Within d :=
  ⟨Mem.wf_write a v h.1, fun x hx => (Mem.mem_write hx).elim (h.2 x) (fun hxa => hxa ▸ ha)⟩

theorem Mem.Within.writeAt {d : Nat → Prop} {m : Mem} (h : m.Within d) {key : Nat → Nat} {a : Nat} {vs : List Byte}
    (hd : ∀ i, i < vs.length → d (key (a + i))) : (m.writeAt key a vs).Within d := by
  refine ⟨Mem.wf_writeAt key a vs h.1, fun x hx => ?_⟩
  rcases Mem.mem_writeAt hx with hx | ⟨i, hi, hxi⟩
  · exact h.2 x hx
  · exact hxi ▸ hd i hi

/-- The addresses of the records of enabled identifiers (R35, R271). -/
def recordAddress (cfg : Config) (a : Nat) : Prop := a / 65536 < (enabledSize cfg (BitVec.ofNat 16 a)).getD 0

/-- The spaces of one link, each in canonical form and inside its bounds. -/
def Link.SpacesOk (cfg : Config) (c : LinkCfg) (k : Link) : Prop :=
  k.rxbuf.Within (· < bufferSize cfg c.kind) ∧ k.scratch.Within (· < Config.maxFrame)
    ∧ k.records.Within (recordAddress cfg)

theorem State.spacesOk_iff {s : State} : s.SpacesOk ↔ s.Every (Link.SpacesOk s.cfg) := by
  refine forall₂_congr fun x _ => ?_
  simp only [Link.SpacesOk, Mem.Within, recordsInside, recordAddress]
  tauto

theorem Link.spacesOk_reset (cfg : Config) (c : LinkCfg) : Link.SpacesOk cfg c (Link.reset cfg c) :=
  ⟨Mem.within_nil _, Mem.within_nil _, Mem.within_nil _⟩

/-- What RX stores fits the receive buffer, whatever the burst. -/
theorem received_length_le (size draw : Nat) (burst : List Byte) : (received size draw burst).length ≤ size := by
  unfold received
  split
  · assumption
  · simp

/-- Offset `i` of the record of an enabled identifier, below its size. -/
theorem recordAddress_recordKey {cfg : Config} {id : Half} {size i : Nat} (hsize : enabledSize cfg id = some size)
    (hi : i < size) : recordAddress cfg (recordKey id i) := by
  have hid : BitVec.ofNat 16 (recordKey id i) = id := by
    apply BitVec.eq_of_toNat_eq
    simp only [recordKey, BitVec.toNat_ofNat]
    omega
  have hdiv : recordKey id i / 65536 = i := by
    have := id.isLt
    simp only [recordKey]
    omega
  simpa [recordAddress, hid, hdiv, hsize] using hi

/-- The bounded copy of DISPATCH stays inside the record (R178). -/
theorem dispatch_records_within {cfg : Config} {k : Link} (h : k.records.Within (recordAddress cfg)) :
    (dispatch cfg k).link.records.Within (recordAddress cfg) := by
  rcases dispatch_cases cfg k with ⟨size, hsize, hd⟩ | ⟨-, hd⟩ <;> rw [hd]
  · refine h.writeAt fun i hi => ?_
    simp only [Link.scratchBytes, Mem.readAt_length] at hi
    exact recordAddress_recordKey hsize (by omega)
  · exact h

/-- DISPATCH leaves the scratch buffer and the receive buffer alone. -/
theorem dispatch_spaces (cfg : Config) (k : Link) :
    (dispatch cfg k).link.rxbuf = k.rxbuf ∧ (dispatch cfg k).link.scratch = k.scratch := by
  rcases dispatch_cases cfg k with ⟨_, -, hd⟩ | ⟨-, hd⟩ <;> rw [hd] <;> exact ⟨rfl, rfl⟩

/-- `ACCUM` inside the buffer keeps the spaces. -/
theorem Link.SpacesOk.accumulated {cfg : Config} {c : LinkCfg} {k : Link} (h : k.SpacesOk cfg c)
    (b : Byte) (hi : k.index.toNat < Config.maxFrame) : (Machine.accumulated b k).SpacesOk cfg c :=
  ⟨h.1, h.2.1.write b hi, h.2.2⟩

/-- DISPATCH keeps the spaces. -/
theorem Link.SpacesOk.dispatch {cfg : Config} {c : LinkCfg} {k : Link} (h : k.SpacesOk cfg c) :
    (Machine.dispatch cfg k).link.SpacesOk cfg c := by
  obtain ⟨hrx, hscratch, hrecords⟩ := h
  obtain ⟨heqrx, heqscratch⟩ := dispatch_spaces cfg k
  exact ⟨heqrx ▸ hrx, heqscratch ▸ hscratch, dispatch_records_within hrecords⟩

/-- One SYNC_BYTE keeps the spaces: it stores one byte inside the scratch buffer, and dispatches the frame
it completes. -/
theorem Link.SpacesOk.sync {cfg : Config} {c : LinkCfg} {k : Link} {b : Byte} {v : Verdict} (h : k.SpacesOk cfg c)
    (hv : Machine.sync cfg b k = some v) : v.link.SpacesOk cfg c := by
  rcases sync_cases hv with ⟨-, -, rfl⟩ | ⟨hlt, hrow⟩
  · exact h
  · have hacc := h.accumulated b hlt
    rcases hrow with ⟨-, -, rfl⟩ | ⟨-, rfl⟩ | ⟨-, -, rfl⟩ | ⟨-, -, rfl⟩ | ⟨-, rfl⟩ | ⟨-, -, rfl⟩ | ⟨-, -, rfl⟩ |
      ⟨-, -, rfl⟩ | ⟨-, -, -, rfl⟩ | ⟨-, -, -, rfl⟩
    on_goal 10 => exact hacc.dispatch
    all_goals exact hacc

/-- Every elementary move keeps the spaces: only RX and SYNC_BYTE write to one. -/
theorem LinkMove.keeps_spacesOk {cfg : Config} {now : Word} {c : LinkCfg} {k k' : Link} (hm : LinkMove cfg now c k k') :
    k.SpacesOk cfg c → k'.SpacesOk cfg c := by
  induction hm with
  | trans _ _ ihab ihbd => exact ihbd ∘ ihab
  | receive k draw burst =>
    refine fun h => ⟨h.1.writeAt fun i hi => ?_, h.2⟩
    simpa [flatKey] using hi.trans_le (received_length_le _ draw burst)
  | sync k b v hv => exact fun h => h.sync hv
  | _ => exact id

/-- Settles O58: stores go to the scratch buffer below `index`'s bound, to the receive buffer, and to
enabled records. -/
theorem everyStepKeepsSpaces : Obligations.EveryStepKeepsSpaces := fun _ _ hs h =>
  State.spacesOk_iff.2 (every_step (p := Link.SpacesOk) (fun cfg c _ => Link.spacesOk_reset cfg c)
    (fun _ _ _ _ _ hk hm => hm.keeps_spacesOk hk) (State.spacesOk_iff.1 hs) h)

/-! ### The priority mask (R22) -/

/-- Every bit of the mask is the index of a link of the list. -/
def Owned (links : List LinkCfg) (m : Word) : Prop :=
  ∀ p : Prio, m.getLsbD p.val = true → ∃ c ∈ links, c.prio = some p

theorem State.maskOwned_iff {s : State} : s.MaskOwned ↔ Owned s.cfg.links s.prioMask := Iff.rfl

theorem owned_zero (links : List LinkCfg) : Owned links 0#32 := fun p hp => by simp at hp

/-- A link sets and clears no bit but its own. -/
theorem MaskMove.owned {links : List LinkCfg} {c : LinkCfg} {m m' : Word} {k k' : Link} (hmv : MaskMove c m m' k k')
    (hc : c ∈ links) (h : Owned links m) : Owned links m' := by
  rcases hmv with ⟨rfl, -⟩ | ⟨rfl, -⟩ | ⟨rfl, -⟩
  · exact h
  · intro p hp
    simp only [setPrio_bit, Bool.or_eq_true, decide_eq_true_eq] at hp
    exact hp.elim (h p) (fun hown => ⟨c, hc, hown⟩)
  · intro p hp
    simp only [clearPrio_bit, Bool.and_eq_true] at hp
    exact h p hp.1

/-- Settles O59: a move of a link changes no bit but its own. -/
theorem everyStepKeepsTheMaskOwned : Obligations.EveryStepKeepsTheMaskOwned := by
  intro s t hs h
  refine step_keeps (P := State.MaskOwned) (fun _ _ _ _ _ _ => owned_zero _) (fun _ _ _ _ hs => hs) (fun _ _ _ hs => hs)
    (fun s t l hs hm => ?_) hs h
  obtain ⟨c, k, k', m, r, d, hl, -, hmask, rfl⟩ := hm
  exact hmask.owned (List.mem_of_getElem? hl.1) hs

/-! ### The machine after reset (R44, R313) -/

/-- Settles O10: each invariant holds of every link at reset, whatever the configuration. -/
theorem resetStateMeetsTheInvariants : Obligations.ResetStateMeetsTheInvariants := by
  refine ⟨⟨by simp [State.reset], ?_⟩, ?_, ?_, ?_, ?_, ?_, ?_, ?_, ?_⟩
  · exact State.every_resetWith fun c _ => Ctrl.sized_reset _ c.kind
  · exact State.every_resetWith fun c _ => Nat.zero_le c.fifoCap
  · exact State.every_resetWith fun c _ => cursorOk_reset _ c
  · exact State.every_resetWith fun c _ => Ctrl.entriesOk_reset _ c.kind
  · exact State.spacesOk_iff.2 (State.every_resetWith fun c _ => Link.spacesOk_reset _ c)
  · exact owned_zero _
  · exact State.every_resetWith fun c _ p _ => by simp [State.reset]
  · decide
  · decide

/-! ### Completion (R69, R280) -/

/-- An operation on a link completes if its body does. -/
theorem onLink_completes {i : Instr} {l : Byte} {s : State} {body : LinkCfg → Link → Out}
    (hb : ∀ c k, s.HasLink l c k → ∃ t, body c k = .next t) : ∃ t, onLink i l s body = .next t := by
  rcases onLink_cases i l s body with he | ⟨c, k, -, hl, he⟩ <;> rw [he]
  · exact ⟨_, rfl⟩
  · exact hb c k hl

/-- With a cursor as R31 and R32 say the synchronizer stores inside its buffer, so there is no fault. -/
theorem settleSync_completes (s : State) (l : Byte) (c : LinkCfg) (b : Byte) {k : Link} (hk : cursorOk k) :
    ∃ t, s.settleSync l c (sync s.cfg b k) = .next t := by
  cases hv : sync s.cfg b k with
  | none => exact absurd (cursorOk_index hk) (Nat.not_lt.2 (sync_none hv))
  | some v => exact ⟨_, rfl⟩

/-- Every operation completes where the cursors are sound; only SYNC_BYTE and W_RECV need them. -/
theorem exec_completes (i : Instr) {s : State} (hs : s.CursorsOk) : ∃ t, exec i s = .next t := by
  cases i with
  | reset | admitPrio _ | activeSrc | crc8Verify _ | crc16Verify _ | crc8Append _ | crc16Append _ => exact ⟨_, rfl⟩
  | markAlive l | liveCheck l | markTimeout l | validateA l frame | validateB l frame | wLive l | readCtrl l
  | readRec l c | readOnline l => exact onLink_completes fun _ _ _ => ⟨_, rfl⟩
  | push l bytes | pop l | popTimeout l | evalSw l e v | evalBtn l e v =>
    exact onLink_completes fun _ _ _ => by split <;> exact ⟨_, rfl⟩
  | rx l burst =>
    refine onLink_completes fun _ _ _ => ?_
    dsimp only
    repeat' split
    all_goals exact ⟨_, rfl⟩
  | syncByte l b => exact onLink_completes fun c k hl => settleSync_completes s l c b (hs.hasLink hl)
  | wRecv l =>
    refine onLink_completes fun c k hl => ?_
    have hk : cursorOk k := hs.hasLink hl
    split
    · dsimp only
      split
      · exact ⟨_, rfl⟩
      · exact ⟨_, rfl⟩
      · exact settleSync_completes s l c _ (k := k.dequeue s.cfg c) hk
    · exact ⟨_, rfl⟩

/-- Keeping the worker's place completes with the operation. -/
theorem keepPlace_completes (i : Instr) (t : State) : ∃ u, keepPlace i (.next t) = .next u := by
  unfold keepPlace
  dsimp only
  split <;> exact ⟨_, rfl⟩

/-- Settles O30: the one fault of the model needs a cursor past its buffer. -/
theorem everyStepCompletesWithSoundCursors : Obligations.EveryStepCompletesWithSoundCursors := by
  intro s hs
  cases hr : s.requests with
  | nil => exact ⟨s, by simp only [step, fetch, hr, idle]⟩
  | cons r rest =>
    cases hd : decode r.word r.data with
    | error e => exact ⟨_, by simp only [step, fetch, hr, hd, runDecoded]; rfl⟩
    | ok i =>
      obtain ⟨t, ht⟩ := exec_completes i (s := { s with requests := rest, now := r.now }) hs
      rw [step_of_request hr hd, ht]
      exact keepPlace_completes i t

end Sys2Proof.Machine
end

section
/-! PROOF. The queue of a link and its worker's place under one operation (R26, R28, R260), the worker's turn (R134),
and the receive interrupt (R135, R136). -/

namespace Sys2Proof.Machine

/-! ### What an operation does to queues and places -/

/-- What operation `i` on link `l` may do to the link's queue: PUSH and RX append their bytes, POP and W_RECV remove
from the head. -/
def QueueMove (i : Instr) (l : Byte) (q q' : List Byte) : Prop :=
  ∃ m bytes, q' = q.drop m ++ bytes ∧ (m ≠ 0 → i = .pop l ∨ i = .wRecv l)
    ∧ (bytes ≠ [] → i = .push l bytes ∨ i = .rx l bytes)

theorem QueueMove.refl (i : Instr) (l : Byte) (q : List Byte) : QueueMove i l q q :=
  ⟨0, [], by simp, fun h => absurd rfl h, fun h => absurd rfl h⟩

theorem QueueMove.append {i : Instr} {l : Byte} {bytes : List Byte} (hi : i = .push l bytes ∨ i = .rx l bytes)
    (q : List Byte) : QueueMove i l q (q ++ bytes) :=
  ⟨0, bytes, rfl, fun h => absurd rfl h, fun _ => hi⟩

theorem QueueMove.drop {i : Instr} {l : Byte} (hi : i = .pop l ∨ i = .wRecv l) (m : Nat) (q : List Byte) :
    QueueMove i l q (q.drop m) :=
  ⟨m, [], by simp, fun _ => hi, fun h => absurd rfl h⟩

/-- Operation `i` leaves the links as they are, or replaces the one it names: that keeps its worker's place, and its
queue moves as `QueueMove` says. -/
def KeepsPlaces (i : Instr) (s t : State) : Prop :=
  t.links = s.links
    ∨ ∃ l c k k', s.HasLink l c k ∧ t.links = s.links.set l.toNat k' ∧ k'.wphase = k.wphase ∧ QueueMove i l k.q k'.q

/-- `KeepsPlaces` seen at one index. -/
theorem KeepsPlaces.at_index {i : Instr} {s t : State} (h : KeepsPlaces i s t) {n : Nat} {k k' : Link}
    (hk : s.links[n]? = some k) (hk' : t.links[n]? = some k') :
    k'.wphase = k.wphase ∧ (k'.q = k.q ∨ ∃ l : Byte, l.toNat = n ∧ QueueMove i l k.q k'.q) := by
  by_cases hsame : s.links[n]? = t.links[n]?
  · cases hk.symm.trans (hsame.trans hk')
    exact ⟨rfl, .inl rfl⟩
  · rcases h with h | ⟨l, c, x, x', hl, h, hplace, hqueue⟩ <;> rw [h] at hk' hsame
    · exact absurd rfl hsame
    · obtain rfl : l.toNat = n := by
        by_contra hn
        exact hsame (List.getElem?_set_ne hn).symm
      cases hk.symm.trans hl.2
      obtain ⟨-, rfl⟩ := by simpa [List.getElem?_set] using hk'
      exact ⟨hplace, .inr ⟨l, rfl, hqueue⟩⟩

theorem onLink_keepsPlaces {i j : Instr} {l : Byte} {s t : State} {body : LinkCfg → Link → Out}
    (hb : ∀ c k, s.HasLink l c k → body c k = .next t → KeepsPlaces i s t) (h : onLink j l s body = .next t) :
    KeepsPlaces i s t := by
  rcases onLink_cases j l s body with he | ⟨c, k, -, hl, he⟩ <;> rw [he] at h
  · cases h
    exact .inl rfl
  · exact hb c k hl h

theorem settle_keepsPlaces {i : Instr} {l : Byte} {s : State} {c : LinkCfg} {k : Link} {v : Verdict}
    {q : List Byte} (hl : s.HasLink l c k) (hplace : v.link.wphase = k.wphase) (hq : v.link.q = q)
    (hqueue : QueueMove i l k.q q) : KeepsPlaces i s (s.settle l c v) := by
  subst hq
  rw [State.settle_eq]
  refine .inr ⟨l, c, k, _, hl, rfl, ?_, ?_⟩ <;> split <;> assumption

theorem settleSync_keepsPlaces {i : Instr} {l : Byte} {s t : State} {c : LinkCfg} {k k' : Link} {b : Byte}
    (hl : s.HasLink l c k) (hplace : k'.wphase = k.wphase) (hqueue : QueueMove i l k.q k'.q)
    (h : s.settleSync l c (sync s.cfg b k') = .next t) : KeepsPlaces i s t := by
  cases hv : sync s.cfg b k' with
  | none => rw [hv] at h; cases h
  | some v =>
    rw [hv] at h
    cases h
    obtain ⟨hq, -, -, -, hp, -, -⟩ := sync_kept hv
    exact settle_keepsPlaces hl (hp.trans hplace) hq hqueue

theorem checkLive_keepsPlaces {i : Instr} {l : Byte} {s : State} {c : LinkCfg} {k k' : Link} {lost : Bool}
    (hl : s.HasLink l c k) (hplace : k'.wphase = k.wphase) (hqueue : QueueMove i l k.q k'.q) :
    KeepsPlaces i s (s.checkLive l c lost k') := by
  rw [State.checkLive_eq]
  refine .inr ⟨l, c, k, _, hl, rfl, ?_, ?_⟩ <;> split <;> assumption

/-- No operation but RESET moves a worker's place, and each moves queues as `QueueMove` says. -/
theorem exec_keepsPlaces {i : Instr} {s t : State} (hi : i ≠ .reset) (h : exec i s = .next t) : KeepsPlaces i s t := by
  cases i with
  | reset => exact absurd rfl hi
  | admitPrio _ | activeSrc | crc8Verify _ | crc16Verify _ | crc8Append _ | crc16Append _ => cases h; exact .inl rfl
  | readCtrl l | readRec l c | readOnline l =>
    exact onLink_keepsPlaces (fun c k hl hb => by cases hb; exact .inl rfl) h
  | popTimeout l =>
    exact onLink_keepsPlaces (fun c k hl hb => by split at hb <;> cases hb <;> exact .inl rfl) h
  | push l bytes =>
    refine onLink_keepsPlaces (fun c k hl hb => ?_) h
    split at hb <;> cases hb
    · exact .inr ⟨l, c, k, _, hl, rfl, rfl, .append (.inl rfl) k.q⟩
    · exact .inl rfl
  | pop l =>
    refine onLink_keepsPlaces (fun c k hl hb => ?_) h
    split at hb <;> cases hb
    · exact .inr ⟨l, c, k, _, hl, rfl, rfl, .drop (.inl rfl) _ k.q⟩
    · exact .inl rfl
  | rx l burst =>
    refine onLink_keepsPlaces (fun c k hl hb => ?_) h
    dsimp only at hb
    split at hb
    · cases hb
      exact .inr ⟨l, c, k, _, hl, rfl, rfl, .refl _ l k.q⟩
    · split at hb
      · cases hb
        exact .inr ⟨l, c, k, _, hl, rfl, rfl, .refl _ l k.q⟩
      · split at hb <;> cases hb
        · exact .inr ⟨l, c, k, _, hl, rfl, rfl, .append (.inr rfl) k.q⟩
        · exact .inr ⟨l, c, k, _, hl, rfl, rfl, .refl _ l k.q⟩
  | markAlive l | markTimeout l =>
    exact onLink_keepsPlaces (fun c k hl hb => by cases hb; exact .inr ⟨l, c, k, _, hl, rfl, rfl, .refl _ l k.q⟩) h
  | liveCheck l | wLive l =>
    exact onLink_keepsPlaces (fun c k hl hb => by cases hb; exact checkLive_keepsPlaces hl rfl (.refl _ l k.q)) h
  | syncByte l b =>
    exact onLink_keepsPlaces (fun c k hl hb => settleSync_keepsPlaces hl rfl (.refl _ l k.q) hb) h
  | validateA l frame =>
    refine onLink_keepsPlaces (fun c k hl hb => ?_) h
    obtain ⟨hq, -, hp, -⟩ := validateA_kept s.cfg s.now frame k
    cases hb
    exact settle_keepsPlaces hl hp hq (.refl _ l k.q)
  | validateB l frame =>
    refine onLink_keepsPlaces (fun c k hl hb => ?_) h
    obtain ⟨hq, -, hp, -⟩ := validateB_kept s.cfg s.now frame k
    cases hb
    exact settle_keepsPlaces hl hp hq (.refl _ l k.q)
  | evalSw l e v | evalBtn l e v =>
    refine onLink_keepsPlaces (fun c k hl hb => ?_) h
    split at hb <;> cases hb
    · exact .inr ⟨l, c, k, _, hl, rfl, rfl, .refl _ l k.q⟩
    · exact .inl rfl
  | wRecv l =>
    refine onLink_keepsPlaces (fun c k hl hb => ?_) h
    have hpop : QueueMove (.wRecv l) l k.q (k.dequeue s.cfg c).q := .drop (.inr rfl) _ k.q
    split at hb
    · dsimp only at hb
      split at hb
      · obtain ⟨hq, -, hp, -⟩ := validateA_kept s.cfg s.now (popped s.cfg c k) (k.dequeue s.cfg c)
        cases hb
        exact settle_keepsPlaces hl hp hq hpop
      · obtain ⟨hq, -, hp, -⟩ := validateB_kept s.cfg s.now (popped s.cfg c k) (k.dequeue s.cfg c)
        cases hb
        exact settle_keepsPlaces hl hp hq hpop
      · exact settleSync_keepsPlaces (k' := k.dequeue s.cfg c) hl rfl hpop hb
    · cases hb
      exact .inl rfl

/-- Settles O16, from what each operation does to the queue of the link it names. -/
theorem queuesGrowByPushAndShrinkByPop : Obligations.QueuesGrowByPushAndShrinkByPop := by
  intro i s t n k k' hi h hk hk'
  obtain ⟨-, hq | ⟨l, hl, m, bytes, hq, hpop, hpush⟩⟩ := (exec_keepsPlaces hi h).at_index hk hk'
  · exact ⟨0, [], by simp [hq], fun h => absurd rfl h, fun h => absurd rfl h⟩
  · exact ⟨m, bytes, hq, fun hm => ⟨l, hl, hpop hm⟩, fun hb => ⟨l, hl, hpush hb⟩⟩

/-! ### The worker's place (R28, R260) -/

/-- Everything `phaseAfter` can answer: which operation and response move a worker, and where to. -/
theorem phaseAfter_some {i : Instr} {st : Status} {l : Byte} {p : Phase} (h : phaseAfter i st = some (l, p)) :
    (i = .wRecv l ∧ st ≠ .notReady ∧ st ≠ .illegalOp ∧ p = .live) ∨ (i = .popTimeout l ∧ st = .timedOut ∧ p = .live)
      ∨ (i = .wLive l ∧ st ≠ .illegalOp ∧ p = .recv) := by
  cases i with
  | wRecv m =>
    simp only [phaseAfter, Option.ite_none_left_eq_some, Option.some.injEq, Prod.mk.injEq, not_or] at h
    obtain ⟨⟨hready, hlegal⟩, rfl, rfl⟩ := h
    exact .inl ⟨rfl, hready, hlegal, rfl⟩
  | popTimeout m =>
    simp only [phaseAfter, Option.ite_none_right_eq_some, Option.some.injEq, Prod.mk.injEq] at h
    obtain ⟨hst, rfl, rfl⟩ := h
    exact .inr (.inl ⟨rfl, hst, rfl⟩)
  | wLive m =>
    simp only [phaseAfter, Option.ite_none_left_eq_some, Option.some.injEq, Prod.mk.injEq] at h
    obtain ⟨hlegal, rfl, rfl⟩ := h
    exact .inr (.inr ⟨rfl, hlegal, rfl⟩)
  | _ => cases h

/-- Where `keepPlace` completes, so did the operation. -/
theorem exec_of_keepPlace {i : Instr} {o : Out} {u : State} (h : keepPlace i o = .next u) :
    ∃ t, o = .next t ∧ keepPlace i (.next t) = .next u := by
  obtain ⟨t, rfl, -⟩ := keepPlace_next h
  exact ⟨t, rfl, h⟩

theorem keepPlace_some {i : Instr} {t u : State} {l : Byte} {p : Phase} (hp : phaseAfter i t.resp.status = some (l, p))
    (h : keepPlace i (.next t) = .next u) : u = t.withPhase l p := by
  simp only [keepPlace, hp] at h
  cases h
  rfl

theorem keepPlace_none {i : Instr} {t u : State} (hp : phaseAfter i t.resp.status = none)
    (h : keepPlace i (.next t) = .next u) : u = t := by
  simp only [keepPlace, hp] at h
  cases h
  rfl

/-- The response is the operation's. -/
theorem keepPlace_resp {i : Instr} {t u : State} (h : keepPlace i (.next t) = .next u) : u.resp = t.resp := by
  obtain ⟨t', ht, rfl | ⟨l, p, -, rfl⟩⟩ := keepPlace_next h <;> cases ht <;> rfl

/-- The place of a link after `withPhase` is the new one on that link, and the old one on any other. -/
theorem withPhase_wphase {s : State} {l : Byte} {p : Phase} {n : Nat} {k : Link}
    (h : (s.withPhase l p).links[n]? = some k) :
    ∃ x, s.links[n]? = some x ∧ k.wphase = if l.toNat = n then p else x.wphase := by
  simp only [State.withPhase_links, List.getElem?_modify, Option.map_eq_map, Option.map_eq_some_iff] at h
  obtain ⟨x, hx, rfl⟩ := h
  exact ⟨x, hx, by split <;> simp_all⟩

/-- Where `phaseAfter` moves the worker of `l`, that is its place after the step. -/
theorem wphase_of_phaseAfter {i : Instr} {t u : State} {l : Byte} {p : Phase} {k : Link}
    (h : keepPlace i (.next t) = .next u) (hp : phaseAfter i u.resp.status = some (l, p))
    (hk : u.links[l.toNat]? = some k) : k.wphase = p := by
  rw [keepPlace_resp h] at hp
  rw [keepPlace_some hp h] at hk
  obtain ⟨x, -, hx⟩ := withPhase_wphase hk
  simpa using hx

/-- A place that an operation other than RESET moves is that of the link and response that `phaseAfter` names. -/
theorem phaseAfter_of_moved {i : Instr} {s t u : State} {n : Nat} {k k' : Link} (hi : i ≠ .reset)
    (ht : exec i s = .next t) (h : keepPlace i (.next t) = .next u) (hk : s.links[n]? = some k)
    (hk' : u.links[n]? = some k') (hne : k'.wphase ≠ k.wphase) :
    ∃ l p, phaseAfter i t.resp.status = some (l, p) ∧ l.toNat = n := by
  cases hp : phaseAfter i t.resp.status with
  | none =>
    rw [keepPlace_none hp h] at hk'
    exact absurd ((exec_keepsPlaces hi ht).at_index hk hk').1 hne
  | some x =>
    obtain ⟨l, p⟩ := x
    refine ⟨l, p, rfl, ?_⟩
    by_contra hn
    rw [keepPlace_some hp h] at hk'
    obtain ⟨x, hx, hplace⟩ := withPhase_wphase hk'
    rw [if_neg hn] at hplace
    exact hne (hplace.trans ((exec_keepsPlaces hi ht).at_index hk hx).1)

/-! ### What a worker's operations answer -/

theorem onLink_not_notReady {i : Instr} {l : Byte} {s t : State} {body : LinkCfg → Link → Out}
    (hb : ∀ c k, s.HasLink l c k → body c k = .next t → t.resp.status ≠ .notReady) (h : onLink i l s body = .next t) :
    t.resp.status ≠ .notReady := by
  rcases onLink_cases i l s body with he | ⟨c, k, -, hl, he⟩ <;> rw [he] at h
  · cases h
    simp
  · exact hb c k hl h

@[simp] theorem settle_status (s : State) (l : Byte) (c : LinkCfg) (v : Verdict) :
    (s.settle l c v).resp.status = v.status := by
  rw [State.settle_eq]
  rfl

theorem validateA_not_notReady (cfg : Config) (now : Word) (frame : List Byte) (k : Link) :
    (validateA cfg now frame k).status ≠ .notReady := by
  rcases validateA_cases cfg now frame k with ⟨-, h⟩ | ⟨-, -, h⟩ | ⟨-, -, h⟩ <;> simp [h]

theorem validateB_not_notReady (cfg : Config) (now : Word) (frame : List Byte) (k : Link) :
    (validateB cfg now frame k).status ≠ .notReady := by
  rcases validateB_cases cfg now frame k with ⟨-, h⟩ | ⟨-, -, h⟩ | ⟨-, -, -, h⟩ | ⟨-, -, -, h⟩ <;> simp [h]

theorem sync_not_notReady {cfg : Config} {b : Byte} {k : Link} {v : Verdict} (h : sync cfg b k = some v) :
    v.status ≠ .notReady := by
  rcases sync_cases h with ⟨-, -, rfl⟩ | ⟨-, h⟩
  · simp
  · rcases h with ⟨-, -, rfl⟩ | ⟨-, rfl⟩ | ⟨-, -, rfl⟩ | ⟨-, -, rfl⟩ | ⟨-, rfl⟩ | ⟨-, -, rfl⟩ | ⟨-, -, rfl⟩ |
      ⟨-, -, rfl⟩ | ⟨-, -, -, rfl⟩ | ⟨-, -, -, rfl⟩
    on_goal 10 => rcases dispatch_cases cfg (accumulated b k) with ⟨_, -, hd⟩ | ⟨-, hd⟩ <;> simp [hd]
    all_goals simp

/-- W_LIVE answers OK, LIVE_LOST or ILLEGAL_OP. -/
theorem exec_wLive_not_notReady {l : Byte} {s t : State} (h : exec (.wLive l) s = .next t) :
    t.resp.status ≠ .notReady := by
  refine onLink_not_notReady (fun c k _ hb => ?_) h
  cases hb
  rw [State.checkLive_eq]
  simp only [State.update_resp]
  split <;> simp

/-- With a unit in the queue W_RECV answers what the link's decoder answers (R261). -/
theorem exec_wRecv_not_notReady {l : Byte} {s t : State} {c : LinkCfg} {k : Link} (hl : s.HasLink l c k)
    (hready : popReady s.cfg c k = true) (h : exec (.wRecv l) s = .next t) : t.resp.status ≠ .notReady := by
  refine onLink_not_notReady (fun c' k' hl' hb => ?_) h
  cases hl.1.symm.trans hl'.1
  cases hl.2.symm.trans hl'.2
  rw [if_pos hready] at hb
  dsimp only at hb
  split at hb
  · cases hb
    simpa using validateA_not_notReady _ _ _ _
  · cases hb
    simpa using validateB_not_notReady _ _ _ _
  · unfold State.settleSync at hb
    split at hb <;> cases hb
    rename_i v hv
    simpa using sync_not_notReady hv

/-- Without a unit and past the deadline POP_TIMEOUT answers TIMED_OUT (R133). -/
theorem exec_popTimeout_not_notReady {l : Byte} {s t : State} {c : LinkCfg} {k : Link} (hl : s.HasLink l c k)
    (hready : popReady s.cfg c k = false) (hexpired : waitExpired c s.now k = true)
    (h : exec (.popTimeout l) s = .next t) : t.resp.status ≠ .notReady := by
  refine onLink_not_notReady (fun c' k' hl' hb => ?_) h
  cases hl.1.symm.trans hl'.1
  cases hl.2.symm.trans hl'.2
  rw [if_pos (by simp [hready, hexpired])] at hb
  cases hb
  simp

/-! ### The worker's turn (R134, R260) -/

theorem popReady_iff {cfg : Config} {c : LinkCfg} {k : Link} :
    popReady cfg c k = true ↔ popCount cfg c.kind ≤ k.q.length := decide_eq_true_iff

theorem waitExpired_iff {c : LinkCfg} {now : Word} {k : Link} :
    waitExpired c now k = true ↔ c.popTimeout ≤ (now - k.waitStart).toNat := decide_eq_true_iff

/-- Everything a worker that is not suspended does next. -/
theorem workerNext_cases {cfg : Config} {c : LinkCfg} {now : Word} {k : Link} {op : WorkerOp}
    (h : workerNext cfg c now k = some op) :
    op = .wLive ∨ (op = .wRecv ∧ popReady cfg c k = true)
      ∨ (op = .popTimeout ∧ popReady cfg c k = false ∧ waitExpired c now k = true) := by
  unfold workerNext at h
  split at h
  · cases h
    exact .inl rfl
  · split at h
    · rename_i hready
      cases h
      exact .inr (.inl ⟨rfl, hready⟩)
    · rename_i hready
      split at h <;> cases h
      rename_i hexpired
      exact .inr (.inr ⟨rfl, by simpa using hready, hexpired⟩)

/-- A worker takes the step that its loop enables. -/
theorem workerTurn_some {s : State} {l : Byte} {c : LinkCfg} {k : Link} {now : Word} {op : WorkerOp}
    (hl : s.HasLink l c k) (h : workerNext s.cfg c now k = some op) :
    workerTurn l now s = agentStep (.worker l op) now s := by
  simp only [workerTurn, hl.1, hl.2, h]

/-- A suspended worker takes no step. -/
theorem workerTurn_none {s : State} {l : Byte} {c : LinkCfg} {k : Link} {now : Word}
    (hl : s.HasLink l c k) (h : workerNext s.cfg c now k = none) : workerTurn l now s = .next s := by
  simp only [workerTurn, hl.1, hl.2, h, idle]

/-- A turn of the worker never answers NOT_READY. -/
theorem workerTurn_not_notReady {s t : State} {l : Byte} {now : Word} (hs : s.resp.status ≠ .notReady)
    (h : workerTurn l now s = .next t) : t.resp.status ≠ .notReady := by
  rcases workerTurn_cases l now s with he | ⟨c, k, op, hl, hop, he⟩ <;> rw [he] at h
  · cases h
    exact hs
  · rcases agentStep_cases h with ⟨-, rfl⟩ | ⟨-, u, hu, ht⟩
    · exact hs
    · have hresp : t.resp = u.resp := by rcases ht with rfl | ⟨_, _, -, rfl⟩ <;> rfl
      have hl' : ({ s with now := now } : State).HasLink l c k := hl
      rw [hresp]
      rcases workerNext_cases hop with rfl | ⟨rfl, hready⟩ | ⟨rfl, hready, hexpired⟩
      · exact exec_wLive_not_notReady hu
      · exact exec_wRecv_not_notReady hl' hready hu
      · exact exec_popTimeout_not_notReady hl' hready hexpired hu

/-- Settles O8: the first half from what `keepPlace` adds to the operation, the second from what a worker does next. -/
theorem workerPhaseFollowsTheLoop : Obligations.WorkerPhaseFollowsTheLoop := by
  refine ⟨fun s u r rest i hr hd h => ?_, fun s l c k now n hl hn => ?_⟩
  · rw [step_of_request hr hd] at h
    obtain ⟨t, ht, hu⟩ := exec_of_keepPlace h
    refine ⟨fun l k hk => ⟨?_, ?_, ?_⟩, fun hi n k k' hk hk' hne => ?_⟩
    · rintro rfl hready hlegal
      exact wphase_of_phaseAfter hu (by simp [phaseAfter, hready, hlegal]) hk
    · rintro rfl htimed
      exact wphase_of_phaseAfter hu (by simp [phaseAfter, htimed]) hk
    · rintro rfl hlegal
      exact wphase_of_phaseAfter hu (by simp [phaseAfter, hlegal]) hk
    · obtain ⟨l, p, hp, hln⟩ := phaseAfter_of_moved hi ht hu hk hk' hne
      rw [keepPlace_resp hu]
      rcases phaseAfter_some hp with ⟨rfl, hready, hlegal, -⟩ | ⟨rfl, htimed, -⟩ | ⟨rfl, hlegal, -⟩
      · exact ⟨hready, hlegal, l, hln, .inl rfl⟩
      · exact ⟨by simp [htimed], by simp [htimed], l, hln, .inr (.inl rfl)⟩
      · exact ⟨exec_wLive_not_notReady ht, hlegal, l, hln, .inr (.inr rfl)⟩
  · have hn : n = popCount s.cfg c.kind := by rw [hn]; cases c.kind <;> rfl
    subst hn
    refine ⟨fun hp => workerTurn_some hl ?_, fun hp hready => workerTurn_some hl ?_,
      fun hp hready hexpired => workerTurn_some hl ?_, fun hp hready hwaiting => workerTurn_none hl ?_,
      fun hs t => workerTurn_not_notReady hs⟩
    · simp only [workerNext, hp]
    · simp only [workerNext, hp, popReady_iff, hready, if_true]
    · simp only [workerNext, hp, popReady_iff, waitExpired_iff, Nat.not_le.2 hready, hexpired, if_true, if_false]
    · simp only [workerNext, hp, popReady_iff, waitExpired_iff, Nat.not_le.2 hready, Nat.not_le.2 hwaiting, if_false]

/-! ### The receive interrupt (R135, R136) -/

/-- The admission test for a link with or without a priority (R151). -/
theorem admits_iff_forall (m : Word) (prio : Option Prio) :
    admits m prio = true ↔ ∀ p q : Prio, prio = some p → q < p → m.getLsbD q.val = false := by
  cases prio with
  | none => simp [admits]
  | some p =>
    rw [admits_iff]
    exact ⟨fun h _ q hp => Option.some.inj hp ▸ h q, fun h q => h p q rfl⟩

/-- A burst that fits the receive buffer is what is stored there. -/
theorem received_of_le {size draw : Nat} {burst : List Byte} (h : burst.length ≤ size) :
    received size draw burst = burst := if_pos h

/-- RX stores the burst, whatever follows: each byte of a burst that fits is read back. -/
theorem receive_read {size draw : Nat} {burst : List Byte} {k : Link} (hsize : burst.length ≤ size)
    (hwf : k.rxbuf.wf = true) {n : Nat} (hn : n < burst.length) :
    (k.receive size draw burst).rxbuf.read n = burst[n] := by
  rw [Link.receive_rxbuf, received_of_le hsize]
  simpa [flatKey] using Mem.read_writeAt_same flatKey_injective hwf (a := 0) hn

/-- RX leaves the buffer alone from where what it stores ends. -/
theorem receive_read_above {size draw : Nat} {burst : List Byte} {k : Link} {a : Nat}
    (ha : (received size draw burst).length ≤ a) : (k.receive size draw burst).rxbuf.read a = k.rxbuf.read a := by
  rw [Link.receive_rxbuf]
  exact Mem.read_writeAt_other fun i hi => by simp only [flatKey]; omega

/-- The status of RX: the first failure of the cheap checks, of arbitration and of the push (R136, R291). -/
def rxStatus (s : State) (c : LinkCfg) (k : Link) (burst : List Byte) : Status :=
  if !cheap s.cfg c.kind burst then .dropCheap
  else if !admits s.prioMask c.prio then .dropArb
  else if fits c k burst then .ok
  else .dropFull

/-- RX in one line: the buffer is written in every case, the queue only when the status is OK. -/
theorem exec_rx {s : State} {l : Byte} {c : LinkCfg} {k : Link} (hl : s.HasLink l c k) (burst : List Byte) :
    exec (.rx l burst) s = .next { s with
      links := s.links.set l.toNat { k.receive (bufferSize s.cfg c.kind) s.draws burst with
        q := if rxStatus s c k burst = .ok then k.q ++ burst else k.q }
      resp := { status := rxStatus s c k burst, result := .none }
      draws := (s.drawFor (bufferSize s.cfg c.kind) burst).draws } := by
  have hlegal : legal s.cfg (.rx l burst) = true := linkIs_iff.2 ⟨c, hl.1, rfl⟩
  have hfits : fits c (k.receive (bufferSize s.cfg c.kind) s.draws burst) burst = fits c k burst := rfl
  change execRx l burst s = _
  rw [execRx, onLink_run hlegal hl]
  simp only [hfits, rxStatus]
  split
  · rfl
  · split
    · rfl
    · split <;> rfl

/-- Settles O14: the response is `rxStatus`, and the buffer is written before any check. -/
theorem rxChecksThenAdmitsThenPushes : Obligations.RxChecksThenAdmitsThenPushes := by
  intro s l c k burst size isCheap admitted isFit hl hsize hcheap hadmitted hfit
  have hsize : size = bufferSize s.cfg c.kind := by rw [hsize]; cases c.kind <;> rfl
  have hcheap : isCheap ↔ cheap s.cfg c.kind burst = true := by
    rw [hcheap]
    cases c.kind with
    | fixedA => simp [cheap, Config.frameLenA]
    | fixedB => simp [cheap, and_assoc]
    | stream =>
      simp only [cheap, Bool.and_eq_true, decide_eq_true_iff]
      exact Iff.rfl
  rw [← admits_iff_forall] at hadmitted
  have hfit : isFit ↔ fits c k burst = true := by rw [hfit, fits, decide_eq_true_iff]
  subst hsize
  refine ⟨_, _, _, exec_rx hl burst, ?_, ?_, ?_, ?_, fun hle hwf n hn => receive_read hle hwf hn,
    fun hle a ha => receive_read_above (by rwa [received_of_le hle]),
    fun a ha => receive_read_above ((received_length_le _ _ burst).trans ha), fun hle => if_pos hle⟩
  · intro hc
    simp [rxStatus, mt hcheap.2 hc]
  · intro hc ha
    simp [rxStatus, hcheap.1 hc, mt hadmitted.2 ha]
  · intro hc ha hf
    simp [rxStatus, hcheap.1 hc, hadmitted.1 ha, mt hfit.2 hf]
  · intro hc ha hf
    simp [rxStatus, hcheap.1 hc, hadmitted.1 ha, hfit.1 hf]

end Sys2Proof.Machine
end

section
/-! PROOF. One transaction (20_memory.md R70, R77): the step of a request and of an agent, what becomes of the
configuration, and the one store that has no place in its space (R60, R69). -/

namespace Sys2Proof.Machine

/-! ### A transaction (R70, R90, R296) -/

/-- Settles O4: both halves are the step of a request whose word decodes; an agent's step leaves the requests that wait. -/
theorem stepRunsTheDecodedRequest : Obligations.StepRunsTheDecodedRequest := by
  refine ⟨fun s r rest i hr hd => step_of_request hr hd, fun s a r ha hd => ?_⟩
  have hstep := step_of_request (s := { s with requests := r :: s.requests }) rfl hd
  calc agentStep a r.now s
    _ = keepPlace (a.instr s.cfg) (exec (a.instr s.cfg) { s with now := r.now }) := if_pos ha
    _ = step { s with requests := r :: s.requests } := hstep.symm

/-! ### The configuration (R77, R310) -/

/-- No operation changes what the environment presents. -/
theorem exec_cfgIn {i : Instr} {s t : State} (h : exec i s = .next t) : t.cfgIn = s.cfgIn := by
  rcases exec_cases h with ⟨-, rfl⟩ | ⟨_, rfl⟩ | ⟨_, -, _, _, _, _, _, _, -, -, -, rfl⟩
  · rfl
  · rfl
  · rfl

/-- RESET latches the presented configuration. -/
theorem exec_reset_cfg {s t : State} (h : exec .reset s = .next t) : t.cfg = s.cfgIn := by
  cases h
  rfl

/-- Every other operation leaves the configuration. -/
theorem exec_cfg_of_ne_reset {i : Instr} {s t : State} (hi : i ≠ .reset) (h : exec i s = .next t) : t.cfg = s.cfg := by
  rcases exec_cases h with ⟨hreset, -⟩ | ⟨_, rfl⟩ | ⟨_, -, _, _, _, _, _, _, -, -, -, rfl⟩
  · exact absurd hreset hi
  · rfl
  · rfl

/-- Settles O53: an idle step and an illegal word leave both configurations, and a decoded request does to them what its
operation does. -/
theorem configurationIsConstantBetweenResets : Obligations.ConfigurationIsConstantBetweenResets := by
  intro s u h
  rcases step_cases h with ⟨hr, rfl⟩ | ⟨r, rest, hr, ⟨e, hd, rfl⟩ | ⟨i, t, hd, ht, hu⟩⟩
  · exact ⟨rfl, by simp [hr], fun _ => rfl⟩
  · exact ⟨rfl, by simp [hr, hd], fun _ => rfl⟩
  · obtain ⟨hcfg, hcfgIn⟩ : u.cfg = t.cfg ∧ u.cfgIn = t.cfgIn := by
      rcases hu with rfl | ⟨_, _, -, rfl⟩ <;> exact ⟨rfl, rfl⟩
    rw [hcfg, hcfgIn]
    refine ⟨(exec_cfgIn ht :), ?_, fun hno => ?_⟩
    · rintro ⟨r', rest', hr', hd'⟩
      cases hr.symm.trans hr'
      cases hd.symm.trans hd'
      exact (exec_reset_cfg ht :)
    · have hi : i ≠ .reset := fun hi => hno ⟨r, rest, hr, hi ▸ hd⟩
      exact (exec_cfg_of_ne_reset hi ht :)

/-! ### Storing past the scratch buffer (R60, R69) -/

/-- A full buffer takes no byte: whatever the synchronizer does not discard is stored first, and needs room. -/
theorem sync_none_of_full {cfg : Config} {b : Byte} {k : Link} (hfull : Config.maxFrame ≤ k.index.toNat)
    (hstores : k.step ≠ .seekSof ∨ b = Config.sof) : sync cfg b k = none := by
  cases hv : sync cfg b k with
  | none => rfl
  | some v =>
    rcases sync_cases hv with ⟨hseek, hb, -⟩ | ⟨hroom, -⟩
    · exact absurd hstores (not_or.2 ⟨not_not.2 hseek, hb⟩)
    · exact absurd hfull (Nat.not_le.2 hroom)

/-- SYNC_BYTE on a stream link commits what the synchronizer answers (R170). -/
theorem exec_syncByte {s : State} {l : Byte} {c : LinkCfg} {k : Link} (hl : s.HasLink l c k) (hc : c.kind = .stream)
    (b : Byte) : exec (.syncByte l b) s = s.settleSync l c (sync s.cfg b k) :=
  onLink_run (linkIs_iff.2 ⟨c, hl.1, beq_iff_eq.2 hc⟩) hl

/-- Settles O29: the synchronizer has no room for the byte, and that is the fault. -/
theorem storingPastScratchFaults : Obligations.StoringPastScratchFaults := by
  intro s l b c k hl hc hfull hstores
  rw [exec_syncByte hl hc, sync_none_of_full hfull hstores]
  rfl

end Sys2Proof.Machine
end

section
/-! PROOF. The decoder and the encoder (30_encoding.md R91 to R95) undo each other: first format by format, in both
directions, then row by row of the table R92. -/

namespace Sys2Proof

/-! ### Each format reads what the encoder packs -/

@[simp] theorem noLink_packWord (op : Byte) (arg : Half) (d : Decoded) : noLink (packWord op 0#8 arg) d = d := by
  simp [noLink]

@[simp] theorem formatC0_packWord (op l : Byte) (i : Instr) : formatC0 (packWord op l 0#16) [] i = .ok i := by
  simp [formatC0]

@[simp] theorem formatCB_packWord (op l b : Byte) (mk : Byte → Instr) :
    formatCB (packWord op l (0#8 ++ b)) [] mk = .ok (mk b) := by
  simp [formatCB]

@[simp] theorem formatCP_packWord (op l : Byte) (p : Option Prio) (mk : Option Prio → Instr) :
    formatCP (packWord op l (0#8 ++ priorityByte p)) [] mk = .ok (mk p) := by
  simp [formatCP]

@[simp] theorem formatCR_packWord (op l : Byte) (c : Half) (mk : Half → Instr) :
    formatCR (packWord op l c) [] mk = .ok (mk c) := by
  simp [formatCR]

theorem formatCN_packWord {bytes : List Byte} (h : countFits bytes = true) (op l : Byte) (mk : List Byte → Instr) :
    formatCN (packWord op l (BitVec.ofNat 16 bytes.length)) bytes mk = .ok (mk bytes) := by
  have hcount : bytes.length % 65536 = bytes.length := Nat.mod_eq_of_lt (of_decide_eq_true h)
  simp [formatCN, hcount]

/-- The code and the six bits above it are all that format CE reads of the low byte. -/
theorem formatCE_packWord_of_low {lo : Byte} {v : BitVec 2} (hhigh : lo.extractLsb' 2 6 = 0#6)
    (hlow : lo.extractLsb' 0 2 = v) (op l e : Byte) (mk : Byte → BitVec 2 → Instr) :
    formatCE (packWord op l (e ++ lo)) [] mk = .ok (mk e v) := by
  simp [formatCE, hhigh, hlow]

theorem formatCE_packWord (op l e : Byte) (v : BitVec 2) (mk : Byte → BitVec 2 → Instr) :
    formatCE (packWord op l (e ++ (0#6 ++ v))) [] mk = .ok (mk e v) := by
  have hcode : ∀ v : BitVec 2, (0#6 ++ v).extractLsb' 2 6 = 0#6 ∧ (0#6 ++ v).extractLsb' 0 2 = v := by decide
  obtain ⟨hhigh, hlow⟩ := hcode v
  exact formatCE_packWord_of_low hhigh hlow op l e mk

/-- The level, the bit above it and the six bits above both are all that format CE reads of the low byte. -/
theorem formatCELevel_packWord_of_low {lo : Byte} {v : Bool} (hhigh : lo.extractLsb' 2 6 = 0#6)
    (hbit1 : lo.getLsbD 1 = false) (hbit0 : lo.getLsbD 0 = v) (op l e : Byte) (mk : Byte → Bool → Instr) :
    formatCELevel (packWord op l (e ++ lo)) [] mk = .ok (mk e v) := by
  simp only [formatCELevel, noData_nil, argHigh_packWord, argLow_packWord, hhigh, hbit1, hbit0, if_true,
    Bool.false_eq_true, if_false]

theorem formatCELevel_packWord (op l e : Byte) (v : Bool) (mk : Byte → Bool → Instr) :
    formatCELevel (packWord op l (e ++ (0#7 ++ BitVec.ofBool v))) [] mk = .ok (mk e v) := by
  cases v with
  | false => exact formatCELevel_packWord_of_low (by decide) (by decide) (by decide) op l e mk
  | true => exact formatCELevel_packWord_of_low (by decide) (by decide) (by decide) op l e mk

/-- Settles O1: the row of an operation's code is its own, and the row's format reads what the encoder packed. -/
theorem decodeOfEncodeIsTheInstruction : Obligations.DecodeOfEncodeIsTheInstruction := by
  intro i hwf
  change decode (packWord i.op (i.link?.getD 0#8) i.arg) i.data = .ok i
  unfold decode
  rw [opField_packWord, linkField_packWord]
  cases i with
  | reset | activeSrc => exact (noLink_packWord ..).trans (formatC0_packWord ..)
  | admitPrio p => exact (noLink_packWord ..).trans (formatCP_packWord ..)
  | pop l | popTimeout l | markAlive l | liveCheck l | markTimeout l | wRecv l | wLive l | readCtrl l | readOnline l =>
    exact formatC0_packWord ..
  | push l bytes | rx l bytes | validateA l bytes | validateB l bytes => exact formatCN_packWord hwf ..
  | crc8Verify bytes | crc16Verify bytes | crc8Append bytes | crc16Append bytes =>
    exact (noLink_packWord ..).trans (formatCN_packWord hwf ..)
  | syncByte l b => exact formatCB_packWord ..
  | evalSw l e v => exact formatCE_packWord ..
  | evalBtn l e v => exact formatCELevel_packWord ..
  | readRec l c => exact formatCR_packWord ..

/-! ### Each format reads every bit of the word -/

theorem formatCP_ok {w : Word} {data : List Byte} {mk : Option Prio → Instr} {i : Instr}
    (h : formatCP w data mk = .ok i) : data = [] ∧ ∃ p, argField w = 0#8 ++ priorityByte p ∧ mk p = i := by
  obtain ⟨hd, h⟩ := noData_ok h
  split at h
  · rename_i hhigh
    split at h <;> cases h
    rename_i p hp
    exact ⟨hd, p, by rw [← argField_halves, hhigh, priorityOf_some hp], rfl⟩
  · cases h

/-- A byte without its six high bits is its 2-bit code. -/
theorem append_extractLsb'_low {b : Byte} (h : b.extractLsb' 2 6 = 0#6) : 0#6 ++ b.extractLsb' 0 2 = b := by
  rw [← h]
  exact BitVec.extractLsb'_append_extractLsb'_eq_extractLsb' (by rfl) |>.trans (BitVec.extractLsb'_eq_self)

theorem formatCE_ok {w : Word} {data : List Byte} {mk : Byte → BitVec 2 → Instr} {i : Instr}
    (h : formatCE w data mk = .ok i) : data = [] ∧ ∃ e v, argField w = e ++ (0#6 ++ v) ∧ mk e v = i := by
  obtain ⟨hd, h⟩ := noData_ok h
  split at h
  · rename_i hhigh
    cases h
    exact ⟨hd, _, _, by rw [append_extractLsb'_low hhigh, argField_halves], rfl⟩
  · cases h

/-- A 2-bit code without its high bit is a level. -/
theorem append_ofBool_low {b : Byte} (h : b.extractLsb' 2 6 = 0#6) (h1 : b.getLsbD 1 = false) :
    0#7 ++ BitVec.ofBool (b.getLsbD 0) = b := by
  have hcode : ∀ v : BitVec 2, v.getLsbD 1 = false → 0#7 ++ BitVec.ofBool (v.getLsbD 0) = 0#6 ++ v := by decide
  have hlow := hcode (b.extractLsb' 0 2) (by simpa using h1)
  rw [append_extractLsb'_low h] at hlow
  simpa using hlow

theorem formatCELevel_ok {w : Word} {data : List Byte} {mk : Byte → Bool → Instr} {i : Instr}
    (h : formatCELevel w data mk = .ok i) :
    data = [] ∧ ∃ e v, argField w = e ++ (0#7 ++ BitVec.ofBool v) ∧ mk e v = i := by
  obtain ⟨hd, h⟩ := noData_ok h
  split at h
  · rename_i hhigh
    split at h <;> cases h
    rename_i hlevel
    exact ⟨hd, _, _, by rw [append_ofBool_low hhigh (by simpa using hlevel), argField_halves], rfl⟩
  · cases h

/-- A byte count that a word holds fits its field. -/
theorem countFits_of_length {data : List Byte} {n : Half} (h : data.length = n.toNat) : countFits data = true :=
  decide_eq_true (h ▸ n.isLt)

/-- That field is then the byte count. -/
theorem eq_ofNat_of_length {data : List Byte} {n : Half} (h : data.length = n.toNat) :
    n = BitVec.ofNat 16 data.length := by
  rw [h, BitVec.ofNat_toNat, BitVec.setWidth_eq]

/-- The command `(w, data)` is the encoding of `i`, which a word can hold. -/
def Encodes (w : Word) (data : List Byte) (i : Instr) : Prop := i.wf = true ∧ encode i = (w, data)

/-- A command with the fields of `i` is its encoding. -/
theorem encodes_of_fields {w : Word} {data : List Byte} {i : Instr} (hwf : i.wf = true)
    (hop : (opField w).toNat = i.op.toNat) (hlink : linkField w = i.link?.getD 0#8) (harg : argField w = i.arg)
    (hdata : data = i.data) : Encodes w data i := by
  refine ⟨hwf, ?_⟩
  rw [encode, ← hlink, ← harg, ← BitVec.eq_of_toNat_eq hop, packWord_fields, hdata]

/-- Settles O2: in each row of R92, grouped by its format, the operation code, the link field and what the format reads
are the whole command. -/
theorem encodeOfDecodeIsTheCommand : Obligations.EncodeOfDecodeIsTheCommand := by
  intro w data i h
  change Encodes w data i
  unfold decode at h
  split at h
  -- C0, without and with a link
  case h_1 hop | h_10 hop =>
    obtain ⟨hlink, h⟩ := noLink_ok h
    obtain ⟨hdata, harg, rfl⟩ := formatC0_ok h
    exact encodes_of_fields rfl hop hlink harg hdata
  case h_3 hop | h_4 hop | h_7 hop | h_8 hop | h_9 hop | h_20 hop | h_21 hop | h_22 hop | h_24 hop =>
    obtain ⟨hdata, harg, rfl⟩ := formatC0_ok h
    exact encodes_of_fields rfl hop rfl harg hdata
  -- CN, with and without a link
  case h_2 hop | h_5 hop | h_12 hop | h_13 hop =>
    obtain ⟨hlen, rfl⟩ := formatCN_ok h
    exact encodes_of_fields (countFits_of_length hlen) hop rfl (eq_ofNat_of_length hlen) rfl
  case h_14 hop | h_15 hop | h_16 hop | h_17 hop =>
    obtain ⟨hlink, h⟩ := noLink_ok h
    obtain ⟨hlen, rfl⟩ := formatCN_ok h
    exact encodes_of_fields (countFits_of_length hlen) hop hlink (eq_ofNat_of_length hlen) rfl
  -- CP: ADMIT
  case h_6 hop =>
    obtain ⟨hlink, h⟩ := noLink_ok h
    obtain ⟨hdata, p, harg, rfl⟩ := formatCP_ok h
    exact encodes_of_fields rfl hop hlink harg hdata
  -- CB: SYNC_BYTE
  case h_11 hop =>
    obtain ⟨hdata, hhigh, rfl⟩ := formatCB_ok h
    exact encodes_of_fields rfl hop rfl (by rw [← argField_halves, hhigh]; rfl) hdata
  -- CE: EVAL_SW and EVAL_BTN
  case h_18 hop =>
    obtain ⟨hdata, e, v, harg, rfl⟩ := formatCE_ok h
    exact encodes_of_fields rfl hop rfl harg hdata
  case h_19 hop =>
    obtain ⟨hdata, e, v, harg, rfl⟩ := formatCELevel_ok h
    exact encodes_of_fields rfl hop rfl harg hdata
  -- CR: READ_REC
  case h_23 hop =>
    obtain ⟨hdata, rfl⟩ := formatCR_ok h
    exact encodes_of_fields rfl hop rfl rfl hdata
  -- no row
  case h_25 => cases h

/-! ### Words written out from the table -/

/-- Settles O3: the decoder and `legal` run on each word. -/
theorem writtenWordsDecode : Obligations.WrittenWordsDecode := by
  refine ⟨rfl, rfl, rfl, rfl, rfl, rfl, rfl, rfl, rfl, rfl, rfl, rfl, rfl, rfl, ?_, ⟨_, rfl, rfl⟩, ?_⟩
  · simp only [List.forall_mem_cons]
    exact ⟨⟨_, rfl, rfl⟩, ⟨_, rfl, rfl⟩, ⟨_, rfl, rfl⟩, ⟨_, rfl, rfl⟩, ⟨_, rfl, rfl⟩, ⟨_, rfl, rfl⟩, ⟨_, rfl, rfl⟩,
      List.forall_mem_nil _⟩
  · simp only [List.forall_mem_cons]
    exact ⟨⟨_, rfl, rfl⟩, ⟨_, rfl, rfl⟩, ⟨_, rfl, rfl⟩, List.forall_mem_nil _⟩

end Sys2Proof
end

section
/-! PROOF. ILLEGAL_OP (30_encoding.md R93): the answer to a word that does not decode and to a command that is illegal
under the configuration, with no change of the block; and to no other command. -/

namespace Sys2Proof.Machine

/-! ### Illegal words -/

/-- Settles O5: a step looks no further than the decoder. -/
theorem illegalWordChangesNothing : Obligations.IllegalWordChangesNothing := by
  intro s r rest e hr hd
  simp only [step, fetch, hr, hd, runDecoded, State.raise_eq]
  rfl

/-! ### Legality under the configuration -/

/-- `linkIs` on a link that exists. -/
theorem linkIs_of_some {cfg : Config} {l : Byte} {c : LinkCfg} (hc : cfg.links[l.toNat]? = some c)
    (p : LinkCfg → Bool) : linkIs cfg l p = p c := by
  simp only [linkIs, hc]

/-- A legal operation that uses a link names one that exists. -/
theorem legal_link {cfg : Config} {i : Instr} {l : Byte} (hl : i.link? = some l) (hi : legal cfg i = true) :
    ∃ c, cfg.links[l.toNat]? = some c := by
  have use : ∀ {p : LinkCfg → Bool}, linkIs cfg l p = true → ∃ c, cfg.links[l.toNat]? = some c := fun h =>
    (linkIs_iff.1 h).imp fun _ hc => hc.1
  cases i with
  | reset | admitPrio _ | activeSrc | crc8Verify _ | crc16Verify _ | crc8Append _ | crc16Append _ => cases hl
  | readRec m id => cases hl; exact use (Bool.and_eq_true_iff.1 hi).1
  | _ => cases hl; exact use hi

/-- An illegal command answers ILLEGAL_OP and changes nothing (R93). -/
theorem exec_of_not_legal {i : Instr} {s : State} (hi : legal s.cfg i = false) :
    exec i s = .next (s.respond .illegalOp .none) := by
  cases i with
  | reset | admitPrio _ | activeSrc | crc8Verify _ | crc16Verify _ | crc8Append _ | crc16Append _ => cases hi
  | _ => exact onLink_illegal hi

/-- A record exists only for an identifier below `N_CMD` (R35). -/
theorem recordSize_of_le {cfg : Config} {id : Half} (h : cfg.nCmd ≤ id.toNat) : recordSize cfg id = none := by
  simp only [recordSize, sizedCmd, if_neg (Nat.not_lt.2 h), Option.map_none]

/-- A record exists only for an identifier with a row in the table of R12. -/
theorem recordSize_of_forall_ne {cfg : Config} {id : Half} (h : ∀ m ∈ cfg.cmds, m.id ≠ id) :
    recordSize cfg id = none := by
  have hrow : cfg.row id = none := List.find?_eq_none.2 fun m hm => by simpa using h m hm
  simp only [recordSize, sizedCmd, hrow, ite_self, Option.map_none]

/-- Settles O6: in each clause the command is not legal. -/
theorem illegalUnderConfigurationChangesNothing : Obligations.IllegalUnderConfigurationChangesNothing := by
  refine fun s => ⟨fun i l hl hnone => exec_of_not_legal ?_, fun l c hc => ⟨fun hk b => ?_, fun hk id => ?_,
    fun hk f => ?_, fun hk f => ?_, fun hk e v => ?_, fun hk e v => ?_, fun hk => ?_, fun e v he => ?_,
    fun e v he => ?_, fun id hid => ?_, fun id hid => ?_⟩⟩
  · refine Bool.eq_false_iff.2 fun hi => ?_
    obtain ⟨c, hc⟩ := legal_link hl hi
    cases hnone.symm.trans hc
  all_goals refine exec_of_not_legal ?_; rw [legal, linkIs_of_some hc]
  -- the kind of the link
  · exact beq_eq_false_iff_ne.2 hk
  · rw [beq_eq_false_iff_ne.2 hk, Bool.false_and]
  · exact beq_eq_false_iff_ne.2 hk
  · exact beq_eq_false_iff_ne.2 hk
  · rw [hk]; rfl
  · rw [hk]; rfl
  · rw [hk]; rfl
  -- the entry
  · rw [decide_eq_false (Nat.not_lt.2 he), Bool.and_false]
  · rw [decide_eq_false (Nat.not_lt.2 he), Bool.and_false]
  -- the record
  · rw [recordSize_of_le hid, Option.isSome_none, Bool.and_false]
  · rw [recordSize_of_forall_ne hid, Option.isSome_none, Bool.and_false]

/-! ### Legal commands -/

/-- The statuses that a link's decoder answers, the synchronizer or a validator (R281). -/
def decoderStatuses : List Status :=
  [.ok, .syncDiscard, .resyncLen, .resyncCrc8, .resyncCrc16, .frameUnsub, .frameOk, .badCrc16, .badRange, .badLen]

theorem validateA_status (cfg : Config) (now : Word) (frame : List Byte) (k : Link) :
    (validateA cfg now frame k).status ∈ decoderStatuses := by
  rcases validateA_cases cfg now frame k with ⟨-, h⟩ | ⟨-, -, h⟩ | ⟨-, -, h⟩ <;> simp [h, decoderStatuses]

theorem validateB_status (cfg : Config) (now : Word) (frame : List Byte) (k : Link) :
    (validateB cfg now frame k).status ∈ decoderStatuses := by
  rcases validateB_cases cfg now frame k with ⟨-, h⟩ | ⟨-, -, h⟩ | ⟨-, -, -, h⟩ | ⟨-, -, -, h⟩ <;>
    simp [h, decoderStatuses]

theorem dispatch_status (cfg : Config) (k : Link) : (dispatch cfg k).status ∈ decoderStatuses := by
  rcases dispatch_cases cfg k with ⟨_, -, h⟩ | ⟨-, h⟩ <;> simp [h, decoderStatuses]

/-- The rows of R179. -/
theorem sync_status {cfg : Config} {b : Byte} {k : Link} {v : Verdict} (h : sync cfg b k = some v) :
    v.status ∈ decoderStatuses := by
  rcases sync_cases h with ⟨-, -, rfl⟩ | ⟨-, ⟨-, -, rfl⟩ | ⟨-, rfl⟩ | ⟨-, -, rfl⟩ | ⟨-, -, rfl⟩ | ⟨-, rfl⟩ |
    ⟨-, -, rfl⟩ | ⟨-, -, rfl⟩ | ⟨-, -, rfl⟩ | ⟨-, -, -, rfl⟩ | ⟨-, -, -, rfl⟩⟩
  on_goal 11 => exact dispatch_status cfg _
  all_goals simp [decoderStatuses]

/-- A decoder never answers ILLEGAL_OP. -/
theorem settle_not_illegalOp {v : Verdict} (hv : v.status ∈ decoderStatuses) (s : State) (l : Byte) (c : LinkCfg) :
    (s.settle l c v).resp.status ≠ .illegalOp := by
  rw [settle_status]
  exact ne_of_mem_of_not_mem hv (by decide)

theorem settleSync_not_illegalOp {s t : State} {l : Byte} {c : LinkCfg} {b : Byte} {k : Link}
    (h : s.settleSync l c (sync s.cfg b k) = .next t) : t.resp.status ≠ .illegalOp := by
  cases hv : sync s.cfg b k with
  | none => rw [hv] at h; cases h
  | some v =>
    rw [hv] at h
    cases h
    exact settle_not_illegalOp (sync_status hv) s l c

theorem checkLive_not_illegalOp (s : State) (l : Byte) (c : LinkCfg) (lost : Bool) (k : Link) :
    (s.checkLive l c lost k).resp.status ≠ .illegalOp := by
  rw [State.checkLive_eq]
  cases lost <;> simp

/-- A link of the configuration has its state in a state that has all links of its configuration. -/
theorem State.hasLink_of_length {s : State} (hs : s.links.length = s.cfg.links.length) {l : Byte} {c : LinkCfg}
    (hc : s.cfg.links[l.toNat]? = some c) : ∃ k, s.HasLink l c k := by
  obtain ⟨hlt, -⟩ := List.getElem?_eq_some_iff.1 hc
  exact ⟨s.links[l.toNat], hc, List.getElem?_eq_getElem (hs ▸ hlt)⟩

/-- An entry that R37 names exists where the link has its entries. -/
theorem entry_of_named {es : List Entry} {n count : Nat} {radio : Bool} (hlen : es.length = count)
    (h : (radio && decide (n < count)) = true) : ∃ x, es[n]? = some x := by
  have hn : n < es.length := hlen ▸ of_decide_eq_true (Bool.and_eq_true_iff.1 h).2
  exact ⟨es[n], List.getElem?_eq_getElem hn⟩

/-- A legal operation on a link answers what its body answers. -/
theorem onLink_not_illegalOp {i : Instr} {l : Byte} {s t : State} {body : LinkCfg → Link → Out} (hs : s.Shaped)
    (hil : i.link? = some l) (hi : legal s.cfg i = true)
    (hb : ∀ c k, s.HasLink l c k → body c k = .next t → t.resp.status ≠ .illegalOp)
    (h : onLink i l s body = .next t) : t.resp.status ≠ .illegalOp := by
  obtain ⟨c, hc⟩ := legal_link hil hi
  obtain ⟨k, hl⟩ := State.hasLink_of_length hs.1 hc
  rw [onLink_run hi hl] at h
  exact hb c k hl h

/-- A legal command never answers ILLEGAL_OP in a state that has its links and entries. -/
theorem exec_not_illegalOp {i : Instr} {s t : State} (hs : s.Shaped) (hi : legal s.cfg i = true)
    (h : exec i s = .next t) : t.resp.status ≠ .illegalOp := by
  cases i with
  | reset | admitPrio _ | activeSrc | crc8Verify _ | crc16Verify _ | crc8Append _ | crc16Append _ => cases h; simp
  | markAlive l | markTimeout l | readCtrl l | readRec l c | readOnline l =>
    exact onLink_not_illegalOp hs rfl hi (fun c k _ hb => by cases hb; simp) h
  | push l bytes | pop l | popTimeout l =>
    exact onLink_not_illegalOp hs rfl hi (fun c k _ hb => by split at hb <;> cases hb <;> simp) h
  | rx l burst =>
    refine onLink_not_illegalOp hs rfl hi (fun c k _ hb => ?_) h
    dsimp only at hb
    repeat' split at hb
    all_goals cases hb; simp
  | liveCheck l | wLive l =>
    exact onLink_not_illegalOp hs rfl hi (fun c k _ hb => by cases hb; exact checkLive_not_illegalOp _ _ _ _ _) h
  | syncByte l b => exact onLink_not_illegalOp hs rfl hi (fun c k _ hb => settleSync_not_illegalOp hb) h
  | validateA l frame =>
    exact onLink_not_illegalOp hs rfl hi (fun c k _ hb => by cases hb; exact settle_not_illegalOp (validateA_status ..) s l c) h
  | validateB l frame =>
    exact onLink_not_illegalOp hs rfl hi (fun c k _ hb => by cases hb; exact settle_not_illegalOp (validateB_status ..) s l c) h
  | evalSw l e v =>
    refine onLink_not_illegalOp hs rfl hi (fun c k hl hb => ?_) h
    obtain ⟨hsw, -⟩ := hs.2.hasLink hl
    obtain ⟨x, hx⟩ := entry_of_named hsw (legal_kind hi rfl hl)
    rw [hx] at hb
    cases hb
    simp
  | evalBtn l e v =>
    refine onLink_not_illegalOp hs rfl hi (fun c k hl hb => ?_) h
    obtain ⟨-, hbtn⟩ := hs.2.hasLink hl
    obtain ⟨x, hx⟩ := entry_of_named hbtn (legal_kind hi rfl hl)
    rw [hx] at hb
    cases hb
    simp
  | wRecv l =>
    refine onLink_not_illegalOp hs rfl hi (fun c k _ hb => ?_) h
    split at hb
    · dsimp only at hb
      split at hb
      · cases hb; exact settle_not_illegalOp (validateA_status ..) s l c
      · cases hb; exact settle_not_illegalOp (validateB_status ..) s l c
      · exact settleSync_not_illegalOp hb
    · cases hb; simp

/-- Settles O7: an illegal command answers ILLEGAL_OP, and a legal one answers something else. -/
theorem illegalOpMeansIllegalCommand : Obligations.IllegalOpMeansIllegalCommand := by
  intro i s t hs h
  cases hi : legal s.cfg i with
  | false =>
    rw [exec_of_not_legal hi] at h
    cases h
    simp
  | true => simp [exec_not_illegalOp hs hi h]

end Sys2Proof.Machine
end

section
/-! PROOF. The layouts of the two radio frames (30_encoding.md R101, R102) as slices of the frame's little-endian integer
(00_scope.md R15), and the stored channel offset (R106). -/

namespace Sys2Proof.Machine

/-! ### Bytes and slices of a little-endian integer (R15) -/

/-- Shifting out whole bytes drops them. -/
theorem leNat_shiftRight (bytes : List Byte) (i : Nat) : leNat bytes >>> (8 * i) = leNat (bytes.drop i) := by
  induction i generalizing bytes with
  | zero => rfl
  | succ i ih =>
    cases bytes with
    | nil => simp [leNat]
    | cons b rest =>
      have hbyte : leNat (b :: rest) >>> 8 = leNat rest := by
        rw [leNat, Nat.shiftRight_eq_div_pow]
        have := b.isLt
        omega
      rw [Nat.mul_succ, Nat.add_comm, Nat.shiftRight_add, hbyte, ih, List.drop_succ_cons]

/-- Taking bytes keeps the low bits. -/
theorem leNat_take (bytes : List Byte) (n : Nat) : leNat (bytes.take n) = leNat bytes % 2 ^ (8 * n) := by
  induction n generalizing bytes with
  | zero => simp [leNat, Nat.mod_one]
  | succ n ih =>
    cases bytes with
    | nil => simp [leNat]
    | cons b rest =>
      rw [List.take_succ_cons, leNat, leNat, ih, Nat.mul_succ, Nat.add_comm (8 * n), Nat.pow_add,
        Nat.mod_mul (a := 2 ^ 8)]
      have := b.isLt
      rw [show (b.toNat + 256 * leNat rest) % 2 ^ 8 = b.toNat by omega,
        show (b.toNat + 256 * leNat rest) / 2 ^ 8 = leNat rest by omega]

theorem bitsLE_drop (bytes : List Byte) (i pos w : Nat) :
    bitsLE (bytes.drop i) pos w = bitsLE bytes (8 * i + pos) w := by
  rw [bitsLE, bitsLE, ← leNat_shiftRight, Nat.shiftRight_add]

@[simp] theorem bitsLE_getLsbD (bytes : List Byte) (pos w j : Nat) :
    (bitsLE bytes pos w).getLsbD j = (decide (j < w) && (leNat bytes).testBit (pos + j)) := by
  rw [bitsLE, BitVec.getLsbD_ofNat, Nat.testBit_shiftRight]

/-- A slice that ends inside the first `n` bytes does not depend on the others. -/
theorem bitsLE_take (bytes : List Byte) {n pos w : Nat} (h : pos + w ≤ 8 * n) :
    bitsLE (bytes.take n) pos w = bitsLE bytes pos w := by
  apply BitVec.eq_of_getLsbD_eq
  intro i hi
  have hin : pos + i < 8 * n := by omega
  simp [leNat_take, Nat.testBit_mod_two_pow, hin]

/-- The first byte is the lowest 8 bits. -/
theorem byteAt_zero (bytes : List Byte) : byteAt bytes 0 = bitsLE bytes 0 8 := by
  cases bytes with
  | nil => rfl
  | cons b rest =>
    apply BitVec.eq_of_toNat_eq
    have := b.isLt
    simp only [byteAt, bitsLE, leNat, List.getD_cons_zero, Nat.shiftRight_zero, BitVec.toNat_ofNat]
    omega

/-- Byte `i` is the slice of 8 bits at `8 * i`. -/
theorem byteAt_eq_bitsLE (bytes : List Byte) (i : Nat) : byteAt bytes i = bitsLE bytes (8 * i) 8 :=
  calc byteAt bytes i
    _ = byteAt (bytes.drop i) 0 := by simp [byteAt]
    _ = bitsLE (bytes.drop i) 0 8 := byteAt_zero _
    _ = bitsLE bytes (8 * i) 8 := bitsLE_drop bytes i 0 8

/-- The half word at byte `i` is the slice of 16 bits at `8 * i`. -/
theorem halfAt_eq_bitsLE (bytes : List Byte) (i : Nat) : halfAt bytes i = bitsLE bytes (8 * i) 16 := by
  apply BitVec.eq_of_getLsbD_eq
  intro j hj
  simp only [halfAt, le16, byteAt_eq_bitsLE, BitVec.getLsbD_or, BitVec.getLsbD_shiftLeft, BitVec.getLsbD_setWidth,
    bitsLE_getLsbD]
  by_cases hlow : j < 8
  · simp [hlow, hj]
  · have hbit : 8 * (i + 1) + (j - 8) = 8 * i + j := by omega
    have hhigh : j - 8 < 8 ∧ j - 8 < 16 := by omega
    simp [hlow, hj, hbit, hhigh]

/-! ### The layouts (R101, R102) -/

/-- Settles O32: the bit fields are slices by definition, the byte and half-word fields by the lemmas above. -/
theorem protocolAFieldsAreSlices : Obligations.ProtocolAFieldsAreSlices := fun f _ =>
  ⟨rfl, rfl, rfl, rfl, rfl, rfl, halfAt_eq_bitsLE f 6, halfAt_eq_bitsLE f 8, halfAt_eq_bitsLE f 10,
    byteAt_eq_bitsLE f 12, byteAt_eq_bitsLE f 13, halfAt_eq_bitsLE f 14, rfl⟩

/-- A slice of the 64-bit field of protocol B is a slice of the frame, 16 bits further up. -/
theorem bitsLE_word64 (f : List Byte) {pos w : Nat} (h : pos + w ≤ 64) :
    bitsLE ((f.drop 2).take 8) pos w = bitsLE f (16 + pos) w := by
  rw [bitsLE_take _ (by omega), bitsLE_drop]

/-- Settles O33: the fields of the 64-bit part are slices of it, the others those of the frame's bytes. -/
theorem protocolBFieldsAreSlices : Obligations.ProtocolBFieldsAreSlices := by
  intro cfg f hlen _
  rw [show extractB cfg f = extractB22 f from if_pos hlen]
  exact ⟨bitsLE_word64 f (by decide), bitsLE_word64 f (by decide), bitsLE_word64 f (by decide),
    bitsLE_word64 f (by decide), bitsLE_word64 f (by decide), bitsLE_word64 f (by decide), halfAt_eq_bitsLE f 10,
    halfAt_eq_bitsLE f 12, halfAt_eq_bitsLE f 14, byteAt_eq_bitsLE f 16, byteAt_eq_bitsLE f 17, halfAt_eq_bitsLE f 18⟩

/-! ### The channel offset (R106, R206) -/

/-- An 11-bit channel minus 1024 is within the 12 signed bits that hold it. -/
theorem chOffset_toInt (ch : BitVec 11) : (chOffset ch).toInt = (ch.toNat : Int) - 1024 := by
  have hlt : ch.toNat < 2048 := ch.isLt
  have hwide : (ch.zeroExtend 12).toInt = ch.toNat := by
    rw [BitVec.zeroExtend, BitVec.toInt_setWidth]
    exact Int.bmod_eq_of_le (by omega) (by omega)
  have hmid : (BitVec.ofNat 12 Config.chMid).toInt = 1024 := rfl
  rw [chOffset, BitVec.toInt_sub, hwide, hmid]
  exact Int.bmod_eq_of_le (by omega) (by omega)

/-- Settles O34: the quotient is that of the exact offset. -/
theorem channelOffsetIsExact : Obligations.ChannelOffsetIsExact := by
  intro cfg ch
  have hnorm : normChannel cfg (chOffset ch) = ((ch.toNat : Rat) - 1024) / (cfg.chHalf : Rat) := by
    rw [normChannel, chOffset_toInt]
    push_cast
    rfl
  refine ⟨chOffset_toInt ch, hnorm, fun hmid => ?_⟩
  rw [hnorm, hmid]
  norm_num

end Sys2Proof.Machine
end

section
/-! PROOF. The Byte Channel (40_byte_channel.md): PUSH, POP and POP_TIMEOUT on a link that exists (R131 to R133), their
sequences (R137), W_RECV as POP and a decoder (R261), and what the receive interrupt may touch (R139, R157, R290). -/

namespace Sys2Proof.Machine

/-! ### A link after an operation on it -/

/-- Link `l` after it has been replaced. -/
theorem State.HasLink.set {s t : State} {l : Byte} {c : LinkCfg} {k k' : Link} (hl : s.HasLink l c k)
    (hcfg : t.cfg = s.cfg) (hlinks : t.links = s.links.set l.toNat k') : t.HasLink l c k' := by
  obtain ⟨hc, hk⟩ := hl
  obtain ⟨hlt, -⟩ := List.getElem?_eq_some_iff.1 hk
  exact ⟨by rw [hcfg, hc], by rw [hlinks, List.getElem?_set_self hlt]⟩

theorem State.HasLink.update {s : State} {l : Byte} {c : LinkCfg} {k : Link} (hl : s.HasLink l c k) (k' : Link)
    (m : Word) (st : Status) (r : Result) : (s.update l k' m st r).HasLink l c k' := hl.set rfl rfl

/-- A commit makes a link what it has to be: what the link and the response were before does not matter. -/
theorem State.update_settle (s : State) (l : Byte) (c : LinkCfg) (k : Link) (st : Status) (r : Result) (v : Verdict) :
    (s.update l k s.prioMask st r).settle l c v = s.settle l c v := by
  simp only [State.settle_eq, State.update, List.set_set]

theorem State.update_settleSync (s : State) (l : Byte) (c : LinkCfg) (k : Link) (st : Status) (r : Result)
    (v : Option Verdict) : (s.update l k s.prioMask st r).settleSync l c v = s.settleSync l c v := by
  cases v with
  | none => rfl
  | some v => exact congrArg Host.Outcome.next (State.update_settle s l c k st r v)

/-- The link after a commit has the queue that the verdict's link has. -/
theorem settle_hasLink {s : State} {l : Byte} {c : LinkCfg} {k : Link} (hl : s.HasLink l c k) (v : Verdict) :
    ∃ k', (s.settle l c v).HasLink l c k' ∧ k'.q = v.link.q := by
  rw [State.settle_eq]
  exact ⟨_, hl.update _ _ _ _, by split <;> rfl⟩

/-! ### PUSH, POP, POP_TIMEOUT (R131, R132, R133) -/

theorem fits_iff {c : LinkCfg} {k : Link} {bytes : List Byte} :
    fits c k bytes = true ↔ k.q.length + bytes.length ≤ c.fifoCap := decide_eq_true_iff

section OnLink

variable {s : State} {l : Byte} {c : LinkCfg} {k : Link}

theorem exec_push (hl : s.HasLink l c k) (bytes : List Byte) : exec (.push l bytes) s =
    if fits c k bytes then .next (s.update l (k.enqueue bytes) s.prioMask .ok .none)
    else .next (s.respond .dropFull .none) :=
  onLink_run (linkIs_iff.2 ⟨c, hl.1, rfl⟩) hl

theorem exec_pop (hl : s.HasLink l c k) : exec (.pop l) s =
    if popReady s.cfg c k then .next (s.update l (k.dequeue s.cfg c) s.prioMask .ok (.bytes (popped s.cfg c k)))
    else .next (s.respond .notReady .none) :=
  onLink_run (linkIs_iff.2 ⟨c, hl.1, rfl⟩) hl

theorem exec_popTimeout (hl : s.HasLink l c k) : exec (.popTimeout l) s =
    if !popReady s.cfg c k && waitExpired c s.now k then .next (s.respond .timedOut .none)
    else .next (s.respond .notReady .none) :=
  onLink_run (linkIs_iff.2 ⟨c, hl.1, rfl⟩) hl

end OnLink

/-- Settles O11, by the two branches of PUSH. -/
theorem pushTakesTheWholeBurstOrNothing : Obligations.PushTakesTheWholeBurstOrNothing := by
  intro s l c k bytes hl
  refine ⟨rfl, rfl, fun hfits => ?_, fun hfull => ?_⟩
  · rw [exec_push hl, if_pos (fits_iff.2 hfits)]
    rfl
  · rw [exec_push hl, if_neg (mt fits_iff.1 (Nat.not_le.2 hfull))]
    rfl

/-- Settles O12, by the two branches of POP. -/
theorem popReturnsTheOldestBytes : Obligations.PopReturnsTheOldestBytes := by
  intro s l c k n hl hn
  change n = popCount s.cfg c.kind at hn
  subst hn
  refine ⟨rfl, rfl, fun hready => ?_, fun hshort => ?_⟩
  · rw [exec_pop hl, if_pos (popReady_iff.2 hready)]
    rfl
  · rw [exec_pop hl, if_neg (mt popReady_iff.1 (Nat.not_le.2 hshort))]
    rfl

/-- Settles O13: the test of POP_TIMEOUT is that of both conditions. -/
theorem popTimeoutWaitsForTheDeadline : Obligations.PopTimeoutWaitsForTheDeadline := by
  intro s l c k n hl hn
  change n = popCount s.cfg c.kind at hn
  subst hn
  have htest : (!popReady s.cfg c k && waitExpired c s.now k) = true ↔
      k.q.length < popCount s.cfg c.kind ∧ c.popTimeout ≤ (s.now - k.waitStart).toNat := by
    rw [Bool.and_eq_true, Bool.not_eq_true', ← Bool.not_eq_true, popReady_iff, waitExpired_iff, Nat.not_le]
  rw [exec_popTimeout hl]
  refine ⟨fun hshort hexpired => if_pos (htest.2 ⟨hshort, hexpired⟩), fun hwaits => if_neg fun h => ?_⟩
  obtain ⟨hshort, hexpired⟩ := htest.1 h
  omega

/-! ### Sequences of PUSH and POP (R137) -/

/-- One operation of a channel completes; what left and is still queued is what was queued and what entered; and the bound
is kept. -/
theorem channelOp_conserves {s : State} {l : Byte} {c : LinkCfg} {k : Link} (hl : s.HasLink l c k) (op : ChannelOp) :
    ∃ t k', exec (op.instr l) s = .next t ∧ t.HasLink l c k'
      ∧ op.left t.resp ++ k'.q = k.q ++ op.entered t.resp ∧ (k.q.length ≤ c.fifoCap → k'.q.length ≤ c.fifoCap) := by
  cases op with
  | push bytes =>
    by_cases hfits : fits c k bytes = true
    · exact ⟨_, k.enqueue bytes, (exec_push hl bytes).trans (if_pos hfits), hl.update _ _ _ _, rfl,
        fun _ => by simpa using fits_iff.1 hfits⟩
    · exact ⟨_, k, (exec_push hl bytes).trans (if_neg hfits), hl, (List.append_nil k.q).symm, id⟩
  | pop =>
    by_cases hready : popReady s.cfg c k = true
    · refine ⟨_, k.dequeue s.cfg c, (exec_pop hl).trans (if_pos hready), hl.update _ _ _ _, ?_, fun hcap => ?_⟩
      · exact (List.take_append_drop _ k.q).trans (List.append_nil k.q).symm
      · exact (List.drop_sublist _ k.q).length_le.trans hcap
    · exact ⟨_, k, (exec_pop hl).trans (if_neg hready), hl, (List.append_nil k.q).symm, id⟩

/-- A sequence whose first operation completes runs on from there. -/
theorem runChannel_cons {l : Byte} {op : ChannelOp} {ops : List ChannelOp} {s t u : State} {ins outs : List Byte}
    (hop : exec (op.instr l) s = .next t) (hops : runChannel l ops t = some (ins, outs, u)) :
    runChannel l (op :: ops) s = some (op.entered t.resp ++ ins, op.left t.resp ++ outs, u) := by
  simp only [runChannel, hop, hops]

/-- Settles O15, by induction on the sequence, for every state it may start in. -/
theorem byteChannelConservesBytes : Obligations.ByteChannelConservesBytes := by
  intro ops
  induction ops with
  | nil => exact fun s l c k hl => ⟨[], [], s, k, rfl, hl, (List.append_nil k.q).symm, id⟩
  | cons op ops ih =>
    intro s l c k hl
    obtain ⟨t, k', hop, hl', hbytes, hbound⟩ := channelOp_conserves hl op
    obtain ⟨ins, outs, u, k'', hops, hl'', hbytes', hbound'⟩ := ih t l c k' hl'
    refine ⟨_, _, u, k'', runChannel_cons hop hops, hl'', ?_, hbound' ∘ hbound⟩
    calc op.left t.resp ++ outs ++ k''.q
      _ = op.left t.resp ++ (k'.q ++ ins) := by rw [List.append_assoc, hbytes']
      _ = k.q ++ op.entered t.resp ++ ins := by rw [← List.append_assoc, hbytes]
      _ = k.q ++ (op.entered t.resp ++ ins) := List.append_assoc ..

/-! ### W_RECV is POP and a decoder (R261) -/

/-- The operation of the link's decoder on one unit: a frame, or the one byte of a stream. -/
def decoderOp (l : Byte) : Kind → List Byte → Instr
  | .fixedA, unit => .validateA l unit
  | .fixedB, unit => .validateB l unit
  | .stream, unit => .syncByte l (byteAt unit 0)

/-- What that decoder answers on link `k`; `none` where the byte has no place in the scratch buffer (R60, log 7). -/
def decodeUnit (cfg : Config) (now : Word) (kind : Kind) (unit : List Byte) (k : Link) : Option Verdict :=
  match kind with
  | .fixedA => some (validateA cfg now unit k)
  | .fixedB => some (validateB cfg now unit k)
  | .stream => sync cfg (byteAt unit 0) k

theorem exec_validateA {s : State} {l : Byte} {c : LinkCfg} {k : Link} (hl : s.HasLink l c k) (hc : c.kind = .fixedA)
    (frame : List Byte) : exec (.validateA l frame) s = .next (s.settle l c (validateA s.cfg s.now frame k)) :=
  onLink_run (linkIs_iff.2 ⟨c, hl.1, beq_iff_eq.2 hc⟩) hl

theorem exec_validateB {s : State} {l : Byte} {c : LinkCfg} {k : Link} (hl : s.HasLink l c k) (hc : c.kind = .fixedB)
    (frame : List Byte) : exec (.validateB l frame) s = .next (s.settle l c (validateB s.cfg s.now frame k)) :=
  onLink_run (linkIs_iff.2 ⟨c, hl.1, beq_iff_eq.2 hc⟩) hl

/-- The decoder's operation commits what the decoder answers. -/
theorem exec_decoderOp {s : State} {l : Byte} {c : LinkCfg} {k : Link} (hl : s.HasLink l c k) (unit : List Byte) :
    exec (decoderOp l c.kind unit) s = s.settleSync l c (decodeUnit s.cfg s.now c.kind unit k) := by
  cases hc : c.kind with
  | fixedA => exact exec_validateA hl hc unit
  | fixedB => exact exec_validateB hl hc unit
  | stream => exact exec_syncByte hl hc (byteAt unit 0)

/-- W_RECV commits what the decoder answers to the popped unit, on the link without it. -/
theorem exec_wRecv {s : State} {l : Byte} {c : LinkCfg} {k : Link} (hl : s.HasLink l c k) : exec (.wRecv l) s =
    if popReady s.cfg c k then
      s.settleSync l c (decodeUnit s.cfg s.now c.kind (popped s.cfg c k) (k.dequeue s.cfg c))
    else .next (s.respond .notReady .none) := by
  refine (onLink_run (linkIs_iff.2 ⟨c, hl.1, rfl⟩) hl : execWRecv l s = _).trans ?_
  cases c.kind <;> rfl

/-- No decoder touches the queue. -/
theorem decodeUnit_q {cfg : Config} {now : Word} {kind : Kind} {unit : List Byte} {k : Link} {v : Verdict}
    (h : decodeUnit cfg now kind unit k = some v) : v.link.q = k.q := by
  cases kind with
  | fixedA => cases h; exact (validateA_kept cfg now unit k).1
  | fixedB => cases h; exact (validateB_kept cfg now unit k).1
  | stream => exact (sync_kept h).1

/-- A decoder answers, on a stream link if the byte has a place in the scratch buffer. -/
theorem decodeUnit_completes {cfg : Config} (now : Word) {kind : Kind} (unit : List Byte) {k : Link}
    (hroom : kind = .stream → k.index.toNat < Config.maxFrame) : ∃ v, decodeUnit cfg now kind unit k = some v := by
  cases kind with
  | fixedA => exact ⟨_, rfl⟩
  | fixedB => exact ⟨_, rfl⟩
  | stream => exact Option.ne_none_iff_exists'.1 fun hnone => absurd (hroom rfl) (Nat.not_lt.2 (sync_none hnone))

/-- Settles O46: W_RECV and the decoder's operation after POP commit the same verdict. -/
theorem wRecvIsPopThenDecode : Obligations.WRecvIsPopThenDecode := by
  intro s l c k n hl hn
  change n = popCount s.cfg c.kind at hn
  subst hn
  refine ⟨fun hshort => ?_, fun hready hroom => ?_⟩
  · rw [exec_wRecv hl, if_neg (mt popReady_iff.1 (Nat.not_le.2 hshort))]
    rfl
  · have hready := popReady_iff.2 hready
    have hl' := hl.update (k.dequeue s.cfg c) s.prioMask .ok (.bytes (popped s.cfg c k))
    obtain ⟨v, hv⟩ := decodeUnit_completes (cfg := s.cfg) s.now (popped s.cfg c k) (k := k.dequeue s.cfg c) hroom
    have hrecv : exec (.wRecv l) s = .next (s.settle l c v) := by
      rw [exec_wRecv hl, if_pos hready, hv]
      rfl
    have hdec := (exec_decoderOp hl' (popped s.cfg c k)).trans (State.update_settleSync ..)
    rw [State.update_cfg, State.update_now, hv] at hdec
    obtain ⟨k', hlast, hq⟩ := settle_hasLink hl v
    refine ⟨_, s.settle l c v, k', (exec_pop hl).trans (if_pos hready), rfl, hrecv, hlast, hq.trans (decodeUnit_q hv),
      ?_, ?_, ?_⟩
    · intro hc
      rw [hc] at hdec
      exact hdec
    · intro hc
      rw [hc] at hdec
      exact hdec
    · intro hc b hb
      have hunit : byteAt (popped s.cfg c k) 0 = b := by
        obtain ⟨rest, hq⟩ := List.head?_eq_some_iff.1 hb
        simp [byteAt, popped, popCount, hc, hq]
      rw [hc, decoderOp, hunit] at hdec
      exact hdec

/-! ### The receive interrupt (R139, R157, R290) -/

/-- A burst that fails arbitration is dropped, by arbitration or before it. -/
theorem rxStatus_of_not_admits {s : State} {c : LinkCfg} {k : Link} {burst : List Byte}
    (h : admits s.prioMask c.prio ≠ true) : rxStatus s c k burst = .dropArb ∨ rxStatus s c k burst = .dropCheap := by
  unfold rxStatus
  split
  · exact .inr rfl
  · exact .inl (if_pos (by simpa using h))

/-- Settles O22: the status of RX is not OK, so the queue is not written. -/
theorem liveHigherPriorityShutsOutRx : Obligations.LiveHigherPriorityShutsOutRx := by
  intro s l c k p q burst hl hp hq hlive
  have hshut : admits s.prioMask c.prio ≠ true := fun h => by
    rw [(admits_iff_forall _ _).1 h p q hp hq] at hlive
    cases hlive
  have hdrop := rxStatus_of_not_admits (k := k) (burst := burst) hshut
  refine ⟨_, _, exec_rx hl burst, hl.set rfl rfl, if_neg ?_, hdrop⟩
  rcases hdrop with h | h <;> simp [h]

/-- `k'` is link `k` but for bytes appended to the queue and another receive buffer. -/
def Link.Receives (k k' : Link) : Prop := ∃ bytes rxbuf, k' = { k with q := k.q ++ bytes, rxbuf := rxbuf }

theorem Link.Receives.refl (k : Link) : k.Receives k := ⟨[], k.rxbuf, by rw [List.append_nil]⟩

/-- Operation `i` changes no link, or receives on the one that it names; beside the links it may write the response and
take free values. -/
def OnlyReceives (i : Instr) (s t : State) : Prop :=
  ∃ links r d, t = { s with links := links, resp := r, draws := d }
    ∧ (links = s.links
      ∨ ∃ l k k', i.link? = some l ∧ s.links[l.toNat]? = some k ∧ links = s.links.set l.toNat k' ∧ k.Receives k')

/-- EVERYTHING AN OPERATION OF THE INTERRUPT CONTEXT CAN DO. -/
theorem exec_onlyReceives {i : Instr} {s t : State} (hi : issuer i = .interrupt) (h : exec i s = .next t) :
    OnlyReceives i s t := by
  cases i with
  | admitPrio p =>
    cases h
    exact ⟨_, _, _, rfl, .inl rfl⟩
  | push l bytes =>
    rcases onLink_cases _ _ _ _ with he | ⟨c, k, -, hl, -⟩
    · cases h.symm.trans he
      exact ⟨_, _, _, rfl, .inl rfl⟩
    · rw [exec_push hl] at h
      split at h <;> cases h
      · exact ⟨_, _, _, rfl, .inr ⟨l, k, _, rfl, hl.2, rfl, bytes, k.rxbuf, rfl⟩⟩
      · exact ⟨_, _, _, rfl, .inl rfl⟩
  | rx l burst =>
    rcases onLink_cases _ _ _ _ with he | ⟨c, k, -, hl, -⟩
    · cases h.symm.trans he
      exact ⟨_, _, _, rfl, .inl rfl⟩
    · cases h.symm.trans (exec_rx hl burst)
      refine ⟨_, _, _, rfl, .inr ⟨l, k, _, rfl, hl.2, rfl, ?_⟩⟩
      split
      · exact ⟨burst, _, rfl⟩
      · exact ⟨[], _, by rw [List.append_nil]; rfl⟩
  | _ => cases hi

/-- `OnlyReceives` seen at one index. -/
theorem OnlyReceives.at_index {i : Instr} {s t : State} (h : OnlyReceives i s t) {n : Nat} {k k' : Link}
    (hk : s.links[n]? = some k) (hk' : t.links[n]? = some k') :
    k.Receives k' ∧ (i.link?.map BitVec.toNat ≠ some n → k' = k) := by
  obtain ⟨links, r, d, rfl, rfl | ⟨l, x, x', hlink, hx, rfl, hrecv⟩⟩ := h
  · cases hk.symm.trans hk'
    exact ⟨.refl k, fun _ => rfl⟩
  · by_cases hn : l.toNat = n
    · subst hn
      cases hk.symm.trans hx
      obtain ⟨-, rfl⟩ := by simpa [List.getElem?_set] using hk'
      exact ⟨hrecv, fun hne => absurd (by rw [hlink]; rfl) hne⟩
    · cases hk.symm.trans ((List.getElem?_set_ne hn).symm.trans hk')
      exact ⟨.refl k, fun _ => rfl⟩

theorem OnlyReceives.frame {i : Instr} {s t : State} (h : OnlyReceives i s t) :
    t.prioMask = s.prioMask ∧ t.cfg = s.cfg ∧ t.requests = s.requests ∧ t.links.length = s.links.length := by
  obtain ⟨links, r, d, rfl, rfl | ⟨l, x, x', -, -, rfl, -⟩⟩ := h
  · exact ⟨rfl, rfl, rfl, rfl⟩
  · exact ⟨rfl, rfl, rfl, List.length_set⟩

/-- No worker moves on by an operation of the interrupt context (R260). -/
theorem keepPlace_of_interrupt {i : Instr} (hi : issuer i = .interrupt) (o : Out) : keepPlace i o = o := by
  cases i with
  | push _ _ | rx _ _ | admitPrio _ => cases o <;> rfl
  | _ => cases hi

/-- A step of `ISR(l)` is an operation of the interrupt context at `now`, or nothing. -/
theorem agentStep_interrupt {l : Byte} {op : InterruptOp} {now : Word} {s t : State}
    (h : agentStep (.interrupt l op) now s = .next t) :
    t = s ∨ OnlyReceives (op.instr s.cfg l) { s with now := now } t := by
  have hi : issuer (op.instr s.cfg l) = .interrupt := issuer_instr s.cfg (.interrupt l op)
  unfold agentStep at h
  split at h
  · exact .inr (exec_onlyReceives hi ((keepPlace_of_interrupt hi _).symm.trans h))
  · cases h
    exact .inl rfl

/-- Settles O51, from everything that an operation of the interrupt context can do. -/
theorem interruptTouchesOnlyQueueAndBuffer : Obligations.InterruptTouchesOnlyQueueAndBuffer := by
  refine ⟨fun i s t hi h => ?_, fun l op now s t h => ?_⟩
  · have hrecv := exec_onlyReceives hi h
    obtain ⟨hmask, hcfg, -, hlen⟩ := hrecv.frame
    exact ⟨hmask, hcfg, hlen, fun n k k' => hrecv.at_index⟩
  · rcases agentStep_interrupt h with rfl | hrecv
    · refine ⟨rfl, rfl, rfl, rfl, fun n k k' hk hk' => ?_⟩
      cases hk.symm.trans hk'
      exact ⟨Link.Receives.refl k, fun _ => rfl⟩
    · obtain ⟨hmask, hcfg, hreq, hlen⟩ := hrecv.frame
      refine ⟨hmask, hcfg, hreq, hlen, fun n k k' hk hk' => ?_⟩
      obtain ⟨hq, hother⟩ := hrecv.at_index hk hk'
      refine ⟨hq, fun hne => hother fun hlink => ?_⟩
      obtain ⟨m, hm, hmn⟩ := Option.map_eq_some_iff.1 hlink
      exact hne (hmn.symm.trans (congrArg BitVec.toNat (interrupt_link hm)))

end Sys2Proof.Machine
end

section
/-! PROOF. The Priority Arbitrator and the Liveness Tracker (41_arbiter_liveness.md): each priority bit is the online flag
of its link after every step (R152 to R154, R313 (a)), and what ADMIT, MARK_ALIVE, MARK_TIMEOUT, LIVE_CHECK and ACTIVE_SRC
do. -/

namespace Sys2Proof.Machine

open Config (priosDistinct)

/-! ### Distinct priorities (R313 (a)) -/

theorem priosDistinct_iff_pairwise (links : List LinkCfg) :
    priosDistinct links = true ↔ links.Pairwise fun c d => c.prio ≠ none → d.prio ≠ c.prio := by
  induction links with
  | nil => simp [priosDistinct]
  | cons c cs ih =>
    simp only [priosDistinct, Bool.and_eq_true, Bool.or_eq_true, beq_iff_eq, List.all_eq_true, bne_iff_ne, ih,
      List.pairwise_cons, or_iff_not_imp_left]
    exact and_congr_left' ⟨fun h d hd hc => h hc d hd, fun h hc d hd => h d hd hc⟩

/-- A priority index names one link. -/
theorem index_eq_of_prio {links : List LinkCfg} (h : priosDistinct links = true) {m n : Nat} {c d : LinkCfg} {p : Prio}
    (hc : links[m]? = some c) (hd : links[n]? = some d) (hcp : c.prio = some p) (hdp : d.prio = some p) : m = n := by
  have hpair := List.pairwise_iff_getElem.1 ((priosDistinct_iff_pairwise links).1 h)
  obtain ⟨hm, rfl⟩ := List.getElem?_eq_some_iff.1 hc
  obtain ⟨hn, rfl⟩ := List.getElem?_eq_some_iff.1 hd
  rcases lt_trichotomy m n with hlt | heq | hgt
  · exact absurd (hdp.trans hcp.symm) (hpair m n hm hn hlt (by simp [hcp]))
  · exact heq
  · exact absurd (hcp.trans hdp.symm) (hpair n m hn hm hgt (by simp [hdp]))

theorem priosDistinct_of_wf {cfg : Config} (h : cfg.wf = true) : priosDistinct cfg.links = true := by
  simp only [Config.wf, Bool.and_eq_true] at h
  tauto

/-! ### Each bit is the flag of its link (R152, R153, R154) -/

/-- A move of a link keeps its own bit equal to its flag: they change together. -/
theorem MaskMove.online_eq_bit {c : LinkCfg} {m m' : Word} {k k' : Link} (hmv : MaskMove c m m' k k') {p : Prio}
    (hp : c.prio = some p) (h : k.online = m.getLsbD p.val) : k'.online = m'.getLsbD p.val := by
  rcases hmv with ⟨rfl, hon⟩ | ⟨rfl, hon⟩ | ⟨rfl, hon⟩ <;> rw [hon]
  · exact h
  · rw [setPrio_bit, decide_eq_true hp, Bool.or_true]
  · rw [clearPrio_bit, decide_eq_true hp, Bool.not_true, Bool.and_false]

/-- A move of a link leaves every bit that is not its own. -/
theorem MaskMove.bit_of_ne {c : LinkCfg} {m m' : Word} {k k' : Link} (hmv : MaskMove c m m' k k') {p : Prio}
    (hp : c.prio ≠ some p) : m'.getLsbD p.val = m.getLsbD p.val := by
  rcases hmv with ⟨rfl, -⟩ | ⟨rfl, -⟩ | ⟨rfl, -⟩
  · rfl
  · rw [setPrio_bit, decide_eq_false hp, Bool.or_false]
  · rw [clearPrio_bit, decide_eq_false hp, Bool.not_false, Bool.and_true]

/-- `FlagsAgree` by index. -/
theorem State.flagsAgree_iff {s : State} : s.FlagsAgree ↔ ∀ (n : Nat) c k, s.cfg.links[n]? = some c →
    s.links[n]? = some k → ∀ p : Prio, c.prio = some p → k.online = s.prioMask.getLsbD p.val := State.every_iff

/-- At reset every flag and every bit is 0 (R44). -/
theorem State.flagsAgree_resetWith (cfg d : Config) (rs : List Request) (now : Word) (r : Response) (f : Nat) :
    (State.resetWith cfg d rs now r f).FlagsAgree :=
  State.every_resetWith fun _ _ p _ => (BitVec.getLsbD_zero (i := p.val)).symm

/-- The workers' places are no flags (R260). -/
theorem State.FlagsAgree.withPhase {s : State} (h : s.FlagsAgree) (l : Byte) (ph : Phase) :
    (s.withPhase l ph).FlagsAgree := by
  refine State.flagsAgree_iff.2 fun n c k hc hk p hp => ?_
  simp only [State.withPhase_links, List.getElem?_modify, Option.map_eq_map, Option.map_eq_some_iff] at hk
  obtain ⟨x, hx, rfl⟩ := hk
  have hon := State.flagsAgree_iff.1 h n c x hc hx p hp
  split <;> exact hon

/-- A move of a link keeps the flags agreeing if no other link has its priority: on the link itself flag and bit move
together, and the bit of any other link stays. -/
theorem State.FlagsAgree.moves {s t : State} {l : Byte} (h : s.FlagsAgree)
    (hdistinct : priosDistinct s.cfg.links = true) (hm : Moves s l t) : t.FlagsAgree := by
  obtain ⟨c, k, k', m, r, d, hl, -, hmask, rfl⟩ := hm
  refine State.flagsAgree_iff.2 fun n e x he hx p hp => ?_
  by_cases hn : l.toNat = n
  · subst hn
    cases hl.1.symm.trans he
    obtain ⟨-, rfl⟩ := by simpa [List.getElem?_set] using hx
    exact hmask.online_eq_bit hp (h.hasLink hl p hp)
  · have hother : c.prio ≠ some p := fun hc => hn (index_eq_of_prio hdistinct hl.1 he hc hp)
    have hx : s.links[n]? = some x := (List.getElem?_set_ne hn).symm.trans hx
    exact (State.flagsAgree_iff.1 h n e x he hx p hp).trans (hmask.bit_of_ne hother).symm

/-- Every step keeps the flags agreeing as far as the priorities are distinct: RESET latches whatever configuration is
presented, and the flags agree after it. -/
theorem step_flagsAgree {s t : State} (hs : priosDistinct s.cfg.links = true → s.FlagsAgree)
    (h : step s = .next t) : priosDistinct t.cfg.links = true → t.FlagsAgree := by
  refine step_keeps (P := fun s => priosDistinct s.cfg.links = true → s.FlagsAgree)
    (fun cfg d rs now r f _ => State.flagsAgree_resetWith cfg d rs now r f) (fun _ _ _ _ hs => hs)
    (fun _ l ph hs hdistinct => (hs hdistinct).withPhase l ph) (fun s t l hs hm hdistinct => ?_) hs h
  have hcfg : t.cfg = s.cfg := by
    obtain ⟨_, _, _, _, _, _, -, -, -, rfl⟩ := hm
    rfl
  rw [hcfg] at hdistinct
  exact (hs hdistinct).moves hdistinct hm

/-- Every step keeps the latched and the presented configuration well formed: it latches the one or keeps the other. -/
theorem step_cfg_wf {s t : State} (hcfg : s.cfg.wf = true) (hcfgIn : s.cfgIn.wf = true) (h : step s = .next t) :
    t.cfg.wf = true ∧ t.cfgIn.wf = true := by
  obtain ⟨hin, hreset, hother⟩ := configurationIsConstantBetweenResets s t h
  rw [hin]
  refine ⟨?_, hcfgIn⟩
  by_cases hr : ∃ r rest, s.requests = r :: rest ∧ decode r.word r.data = .ok .reset
  · rwa [hreset hr]
  · rwa [hother hr]

/-- Settles O60: the flags agree as far as the priorities are distinct, which R313 (a) says of both configurations. -/
theorem everyStepKeepsFlagsAgreeing : Obligations.EveryStepKeepsFlagsAgreeing := by
  intro s t _ hcfg hcfgIn hflags h
  have hwf := step_cfg_wf hcfg hcfgIn h
  exact ⟨step_flagsAgree (fun _ => hflags) h (priosDistinct_of_wf hwf.1), hwf⟩

/-! ### ADMIT and ACTIVE_SRC (R151, R156) -/

/-- Settles O17: the admission test, for a link without and with a priority. -/
theorem admitTestsStrictlyLowerBits : Obligations.AdmitTestsStrictlyLowerBits := fun s =>
  ⟨rfl, rfl, fun p => ⟨rfl, rfl, _, rfl, admits_iff s.prioMask p⟩⟩

/-- Settles O21: the winning source is the first set bit found upward from 0. -/
theorem activeSrcIsTheLeastSetBit : Obligations.ActiveSrcIsTheLeastSetBit := fun s =>
  ⟨rfl, rfl, _, rfl, activeSource_none_iff s.prioMask, activeSource_some_iff s.prioMask⟩

/-! ### MARK_ALIVE, MARK_TIMEOUT, LIVE_CHECK (R152, R153, R154) -/

theorem setPrio_bit_iff (m : Word) (prio : Option Prio) (q : Prio) :
    (setPrio m prio).getLsbD q.val = true ↔ m.getLsbD q.val = true ∨ prio = some q := by
  rw [setPrio_bit, Bool.or_eq_true, decide_eq_true_iff]

theorem clearPrio_bit_iff (m : Word) (prio : Option Prio) (q : Prio) :
    (clearPrio m prio).getLsbD q.val = true ↔ m.getLsbD q.val = true ∧ prio ≠ some q := by
  rw [clearPrio_bit, Bool.and_eq_true, Bool.not_eq_true', decide_eq_false_iff_not]

theorem livenessLost_iff {c : LinkCfg} {now : Word} {k : Link} :
    livenessLost c now k = true ↔ c.liveTimeout < (now - k.lastAlive).toNat := decide_eq_true_iff

section OnLink

variable {s : State} {l : Byte} {c : LinkCfg} {k : Link}

theorem exec_markAlive (hl : s.HasLink l c k) : exec (.markAlive l) s =
    .next (s.update l (k.alive s.now) (setPrio s.prioMask c.prio) .ok .none) :=
  onLink_run (linkIs_iff.2 ⟨c, hl.1, rfl⟩) hl

theorem exec_markTimeout (hl : s.HasLink l c k) : exec (.markTimeout l) s =
    .next (s.update l k.dead (clearPrio s.prioMask c.prio) .ok .none) :=
  onLink_run (linkIs_iff.2 ⟨c, hl.1, rfl⟩) hl

theorem exec_liveCheck (hl : s.HasLink l c k) : exec (.liveCheck l) s =
    .next (s.checkLive l c (livenessLost c s.now k) k) :=
  onLink_run (linkIs_iff.2 ⟨c, hl.1, rfl⟩) hl

/-- A link replaced by itself under the same mask: only the response is new. -/
theorem State.update_self (hl : s.HasLink l c k) (st : Status) (r : Result) :
    s.update l k s.prioMask st r = s.respond st r := by
  obtain ⟨hlt, rfl⟩ := List.getElem?_eq_some_iff.1 hl.2
  simp only [State.update, State.respond, List.set_getElem_self]

end OnLink

/-- Settles O18: the bits of a mask after an atomic set. -/
theorem markAliveSetsFlagTimeAndOwnBit : Obligations.MarkAliveSetsFlagTimeAndOwnBit := fun s _ c _ hl =>
  ⟨_, exec_markAlive hl, setPrio_bit_iff s.prioMask c.prio⟩

/-- Settles O19: the bits of a mask after an atomic clear. -/
theorem markTimeoutClearsFlagAndOwnBit : Obligations.MarkTimeoutClearsFlagAndOwnBit := fun s _ c _ hl =>
  ⟨rfl, rfl, _, exec_markTimeout hl, clearPrio_bit_iff s.prioMask c.prio⟩

/-- Settles O20, by the two outcomes of the liveness test. -/
theorem liveCheckIsStrict : Obligations.LiveCheckIsStrict := by
  intro s l c k hl
  refine ⟨rfl, rfl, fun hlive => ?_, fun hlost => ⟨_, ?_, clearPrio_bit_iff s.prioMask c.prio⟩⟩
  · rw [exec_liveCheck hl, State.checkLive, if_neg (mt livenessLost_iff.1 (Nat.not_lt.2 hlive)), State.update_self hl]
    rfl
  · rw [exec_liveCheck hl, State.checkLive, if_pos (livenessLost_iff.2 hlost)]
    rfl

end Sys2Proof.Machine
end

section
/-! PROOF. The Streaming Frame Synchronizer (42_stream_sync.md): the exact answer of each state of SYNC_BYTE (R172 to
R177), the dispatch of a valid frame (R178), the transition table (R179), and what may change a record (R182, R284,
R285). -/

namespace Sys2Proof.Machine

/-! ### The byte stored, and the bytes before it (R171) -/

/-- A byte is stored where `index` points, and `index` moves on. -/
theorem accumulated_eq {k : Link} {n : Nat} (hn : k.index.toNat = n) (b : Byte) :
    accumulated b k = { k with scratch := k.scratch.write n b, index := BitVec.ofNat 16 (n + 1) } := by
  have hindex : k.index + 1#16 = BitVec.ofNat 16 (n + 1) := BitVec.eq_of_toNat_eq (by simp [hn])
  simp only [accumulated, flatKey, hn, hindex]

theorem accum_of_room {k : Link} (hroom : k.index.toNat < Config.maxFrame) (b : Byte) :
    k.accum b = some (accumulated b k) := accum_some_iff.2 ⟨hroom, rfl⟩

theorem accumulated_read_of_lt {k : Link} {a : Nat} (ha : a < k.index.toNat) (b : Byte) :
    (accumulated b k).scratch.read a = k.scratch.read a := Mem.read_write_other (Nat.ne_of_lt ha)

theorem accumulated_read_index {k : Link} (hwf : k.scratch.wf = true) (b : Byte) :
    (accumulated b k).scratch.read k.index.toNat = b := Mem.read_write_same _ b hwf

theorem scratchBytes_accumulated {k : Link} {a n : Nat} (ha : a + n ≤ k.index.toNat) (b : Byte) :
    (accumulated b k).scratchBytes a n = k.scratchBytes a n := by
  refine List.ext_getElem (by simp [Link.scratchBytes]) fun i hi _ => ?_
  simp only [Link.scratchBytes, Mem.readAt_length] at hi
  simp only [Link.scratchBytes, Mem.readAt_getElem]
  exact accumulated_read_of_lt (by simp only [flatKey]; omega) b

/-- The identifier is in `scratch` before the payload. -/
theorem cmdId_accumulated {k : Link} (h : 7 ≤ k.index.toNat) (b : Byte) : (accumulated b k).cmdId = k.cmdId := by
  simp only [Link.cmdId, flatKey, accumulated_read_of_lt (show 5 < k.index.toNat by omega),
    accumulated_read_of_lt (show 6 < k.index.toNat by omega)]

/-- The two length bytes, low byte first (R173, R174). -/
theorem fullLength_toNat {k : Link} (h : k.declaredLength.toNat < 256) (b : Byte) :
    (fullLength b k).toNat = k.declaredLength.toNat + 256 * b.toNat := by
  have hb := b.isLt
  have hhigh : (b.zeroExtend 16 <<< 8).toNat = b.toNat <<< 8 := by
    simp only [BitVec.truncate_eq_setWidth, BitVec.toNat_shiftLeft, BitVec.toNat_setWidth, Nat.shiftLeft_eq]
    omega
  rw [fullLength, BitVec.toNat_or, hhigh, Nat.or_comm, ← Nat.shiftLeft_add_eq_or_of_lt h, Nat.shiftLeft_eq]
  omega

/-- The header's check, on the four bytes received before it (R176). -/
theorem headerMatches_iff {k : Link} (h : 4 ≤ k.index.toNat) (cfg : Config) (b : Byte) : headerMatches cfg b k ↔
    crc8 cfg [k.scratch.read 0, k.scratch.read 1, k.scratch.read 2, k.scratch.read 3] = b := by
  rw [headerMatches, scratchBytes_accumulated (by omega)]
  rfl

/-- The frame's check on its last byte, from the bytes received before it (R177). -/
theorem bodyMatches_iff {k : Link} {len : Nat} (hwf : k.scratch.wf = true) (hlen : len ≤ Config.lMax)
    (hindex : k.index.toNat = len + 8) (cfg : Config) (b : Byte) : bodyMatches cfg b k ↔
    crc16 cfg (k.scratchBytes 0 (len + 7)) = le16 (k.scratch.read (len + 7)) b := by
  simp only [Config.lMax, Config.maxFrame, Config.overhead] at hlen
  have hnext : (accumulated b k).index.toNat = len + 9 := by
    rw [accumulated_index (by simp only [Config.maxFrame]; omega), hindex]
  have hlast : (accumulated b k).scratch.read (len + 8) = b := hindex ▸ accumulated_read_index hwf b
  simp only [bodyMatches, hnext, show len + 9 - 2 = len + 7 by omega, show len + 9 - 1 = len + 8 by omega, hlast]
  rw [scratchBytes_accumulated (by omega), accumulated_read_of_lt (by omega)]

/-! ### What each state answers (R172 to R177) -/

section Rows

variable {cfg : Config} {b : Byte} {k : Link}

theorem sync_discards (hs : k.step = .seekSof) (hb : b ≠ Config.sof) :
    sync cfg b k = some (quiet k .syncDiscard) := by
  simp only [sync, hs, syncSeek, if_neg hb]

theorem sync_starts (hs : k.step = .seekSof) (hroom : k.index.toNat < Config.maxFrame) (hb : b = Config.sof) :
    sync cfg b k = some (quiet { accumulated b k with step := .lenLow } .ok) := by
  simp only [sync, hs, syncSeek, if_pos hb, accum_of_room hroom]

theorem sync_lenLow (hs : k.step = .lenLow) (hroom : k.index.toNat < Config.maxFrame) : sync cfg b k =
    some (quiet { accumulated b k with declaredLength := b.zeroExtend 16, step := .lenHigh } .ok) := by
  simp only [sync, hs, syncLenLow, accum_of_room hroom]

theorem sync_lenHigh (hs : k.step = .lenHigh) (hroom : k.index.toNat < Config.maxFrame) : sync cfg b k =
    if Config.maxFrame < (fullLength b k).toNat + Config.overhead then
      some (quiet { accumulated b k with declaredLength := fullLength b k }.cursorReset .resyncLen)
    else some (quiet { accumulated b k with declaredLength := fullLength b k, step := .seq } .ok) := by
  simp only [sync, hs, syncLenHigh, accum_of_room hroom]
  rfl

theorem sync_seq (hs : k.step = .seq) (hroom : k.index.toNat < Config.maxFrame) :
    sync cfg b k = some (quiet { accumulated b k with step := .headerCrc8 } .ok) := by
  simp only [sync, hs, syncSeq, accum_of_room hroom]

theorem sync_header_match (hs : k.step = .headerCrc8) (hroom : k.index.toNat < Config.maxFrame)
    (hcrc : headerMatches cfg b k) : sync cfg b k = some (quiet { accumulated b k with step := .bodyCrc16 } .ok) := by
  simp only [sync, hs, syncHeader, accum_of_room hroom]
  exact if_pos hcrc

theorem sync_header_mismatch (hs : k.step = .headerCrc8) (hroom : k.index.toNat < Config.maxFrame)
    (hcrc : ¬ headerMatches cfg b k) : sync cfg b k = some (quiet (accumulated b k).cursorReset .resyncCrc8) := by
  simp only [sync, hs, syncHeader, accum_of_room hroom]
  exact if_neg hcrc

theorem sync_body_continues (hs : k.step = .bodyCrc16) (hroom : k.index.toNat < Config.maxFrame)
    (hlen : k.index.toNat + 1 < k.declaredLength.toNat + Config.overhead) :
    sync cfg b k = some (quiet (accumulated b k) .ok) := by
  simp only [sync, hs, syncBody, accum_of_room hroom]
  exact if_pos (by rwa [accumulated_index hroom])

theorem sync_body_mismatch (hs : k.step = .bodyCrc16) (hroom : k.index.toNat < Config.maxFrame)
    (hlen : k.declaredLength.toNat + Config.overhead ≤ k.index.toNat + 1) (hcrc : ¬ bodyMatches cfg b k) :
    sync cfg b k = some (quiet (accumulated b k).cursorReset .resyncCrc16) := by
  simp only [sync, hs, syncBody, accum_of_room hroom]
  rw [← accumulated_index (b := b) hroom] at hlen
  exact (if_neg (Nat.not_lt.2 hlen)).trans (if_neg hcrc)

theorem sync_body_match (hs : k.step = .bodyCrc16) (hroom : k.index.toNat < Config.maxFrame)
    (hlen : k.declaredLength.toNat + Config.overhead ≤ k.index.toNat + 1) (hcrc : bodyMatches cfg b k) :
    sync cfg b k = some { dispatch cfg (accumulated b k) with
      link := (dispatch cfg (accumulated b k)).link.cursorReset } := by
  simp only [sync, hs, syncBody, accum_of_room hroom]
  rw [← accumulated_index (b := b) hroom] at hlen
  exact (if_neg (Nat.not_lt.2 hlen)).trans (if_pos hcrc)

end Rows

/-- SYNC_BYTE where the synchronizer dispatches nothing: the link is replaced, the mask stays. -/
theorem exec_syncByte_quiet {s : State} {l b : Byte} {c : LinkCfg} {k k' : Link} {st : Status} (hl : s.HasLink l c k)
    (hc : c.kind = .stream) (h : sync s.cfg b k = some (quiet k' st)) : exec (.syncByte l b) s =
    .next { s with links := s.links.set l.toNat k', resp := { status := st, result := .none } } := by
  rw [exec_syncByte hl hc, h]
  rfl

/-- Settles O23, by the two answers of SEEK_SOF. -/
theorem seekSofWaitsForTheSentinel : Obligations.SeekSofWaitsForTheSentinel := by
  intro s l b c k hl hc hs hindex
  have hn : k.index.toNat = 0 := by rw [hindex]; rfl
  refine ⟨fun hb => ?_, fun hb => ?_⟩
  · rw [exec_syncByte hl hc, sync_discards hs hb]
    exact congrArg Host.Outcome.next (State.update_self hl .syncDiscard .none)
  · rw [exec_syncByte_quiet hl hc (sync_starts hs (by rw [hn]; decide) hb), accumulated_eq hn, hb]

/-- Settles O24: the low byte alone, then the full length against its bound. -/
theorem lengthBytesAreCheckedAtTheHighByte : Obligations.LengthBytesAreCheckedAtTheHighByte := by
  intro s l b c k hl hc
  refine ⟨fun hs hindex => ?_, fun hs hindex low hlow => ?_⟩
  · have hn : k.index.toNat = 1 := by rw [hindex]; rfl
    rw [exec_syncByte_quiet hl hc (sync_lenLow hs (by rw [hn]; decide)), accumulated_eq hn, BitVec.ofNat_toNat]
  · have hn : k.index.toNat = 2 := by rw [hindex]; rfl
    have hbyte := low.isLt
    have hlow : k.declaredLength.toNat = low.toNat := by
      rw [hlow, BitVec.toNat_ofNat]
      omega
    have hfull := fullLength_toNat (k := k) (by omega) b
    rw [hlow] at hfull
    have hrow := sync_lenHigh (cfg := s.cfg) (b := b) hs (by rw [hn]; decide)
    simp only [hfull, Config.maxFrame, Config.overhead] at hrow
    refine ⟨fun hfits => ?_, fun hlong => ?_⟩
    · have hlength : fullLength b k = BitVec.ofNat 16 (low.toNat + 256 * b.toNat) := by
        rw [← hfull, BitVec.ofNat_toNat, BitVec.setWidth_eq]
      rw [if_neg (by omega)] at hrow
      rw [exec_syncByte_quiet hl hc hrow, accumulated_eq hn, hlength]
    · rw [if_pos (by omega)] at hrow
      rw [exec_syncByte_quiet hl hc hrow, accumulated_eq hn]
      rfl

/-- Settles O25: SEQ has one answer, HEADER_CRC8 one for each outcome of the check. -/
theorem sequenceThenHeaderCrc : Obligations.SequenceThenHeaderCrc := by
  intro s l b c k hl hc
  refine ⟨fun hs hindex => ?_, fun hs hindex => ?_⟩
  · have hn : k.index.toNat = 3 := by rw [hindex]; rfl
    rw [exec_syncByte_quiet hl hc (sync_seq hs (by rw [hn]; decide)), accumulated_eq hn]
  · have hn : k.index.toNat = 4 := by rw [hindex]; rfl
    have hroom : k.index.toNat < Config.maxFrame := by rw [hn]; decide
    have hmatch := headerMatches_iff hn.ge s.cfg b
    refine ⟨fun hcrc => ?_, fun hcrc => ?_⟩
    · rw [exec_syncByte_quiet hl hc (sync_header_match hs hroom (hmatch.2 hcrc)), accumulated_eq hn]
    · rw [exec_syncByte_quiet hl hc (sync_header_mismatch hs hroom (mt hmatch.1 hcrc)), accumulated_eq hn]
      rfl

/-- Settles O26: before the last byte BODY_CRC16 only accumulates. -/
theorem bodyBytesAccumulate : Obligations.BodyBytesAccumulate := by
  intro s l b c k hl hc hs hroom hlen
  rw [exec_syncByte_quiet hl hc (sync_body_continues hs hroom hlen), accumulated_eq rfl]

/-! ### The dispatch of a valid frame (R178, R182) -/

/-- DISPATCH writes `last_seq` and records of the link, and calls MARK_ALIVE in both cases. -/
theorem dispatch_eq (cfg : Config) (k : Link) : dispatch cfg k =
    { link := { k with lastSeq := k.scratch.read 3, records := (dispatch cfg k).link.records }
      status := (dispatch cfg k).status, alive := true } := by
  rcases dispatch_cases cfg k with ⟨_, -, hd⟩ | ⟨-, hd⟩ <;> rw [hd]

theorem dispatch_of_unsubscribed {cfg : Config} {k : Link} (h : enabledSize cfg k.cmdId = none) :
    (dispatch cfg k).status = .frameUnsub ∧ (dispatch cfg k).link.records = k.records := by
  rcases dispatch_cases cfg k with ⟨_, hsize, -⟩ | ⟨-, hd⟩
  · cases h.symm.trans hsize
  · rw [hd]
    exact ⟨rfl, rfl⟩

theorem dispatch_of_enabled {cfg : Config} {k : Link} {size : Nat} (h : enabledSize cfg k.cmdId = some size) :
    (dispatch cfg k).status = .frameOk ∧ (dispatch cfg k).link.records =
      k.records.writeAt (recordKey k.cmdId) 0 (k.scratchBytes 7 (min k.declaredLength.toNat size)) := by
  rcases dispatch_cases cfg k with ⟨_, hsize, hd⟩ | ⟨hnone, -⟩
  · cases h.symm.trans hsize
    rw [hd]
    exact ⟨rfl, rfl⟩
  · cases h.symm.trans hnone

/-- The bounded copy: each payload byte within the record is read back. -/
theorem dispatch_read {cfg : Config} {k : Link} {size n : Nat} (h : enabledSize cfg k.cmdId = some size)
    (hwf : k.records.wf = true) (hn : n < min k.declaredLength.toNat size) :
    (dispatch cfg k).link.records.read (recordKey k.cmdId n) = k.scratch.read (7 + n) := by
  rw [(dispatch_of_enabled h).2]
  simpa [Link.scratchBytes, flatKey] using
    Mem.read_writeAt_same (recordKey_injective k.cmdId) hwf (a := 0)
      (vs := k.scratchBytes 7 (min k.declaredLength.toNat size)) (i := n) (by simpa [Link.scratchBytes] using hn)

/-- The records after are those of link `k`, but for bytes of the record of the frame in `scratch` that its length and
the record's size bound. -/
def Link.OnlyFrameRecord (cfg : Config) (k : Link) (records : Mem) : Prop :=
  ∀ (id : Half) (j : Nat), records.read (recordKey id j) ≠ k.records.read (recordKey id j) →
    id = k.cmdId ∧ ∃ size, enabledSize cfg id = some size ∧ j < min k.declaredLength.toNat size

theorem dispatch_onlyFrameRecord (cfg : Config) (k : Link) :
    k.OnlyFrameRecord cfg (dispatch cfg k).link.records := by
  intro id j hne
  cases hsize : enabledSize cfg k.cmdId with
  | none => exact absurd (by rw [(dispatch_of_unsubscribed hsize).2]) hne
  | some size =>
    rw [(dispatch_of_enabled hsize).2] at hne
    have hid : id = k.cmdId := by
      by_contra hid
      exact hne (Mem.read_writeAt_other fun i _ => recordKey_ne hid j _)
    subst hid
    refine ⟨rfl, size, hsize, ?_⟩
    by_contra hj
    refine hne (Mem.read_writeAt_other fun i hi heq => hj ?_)
    have hji := recordKey_injective _ heq
    simp only [Link.scratchBytes, Mem.readAt_length] at hi
    omega

/-- SYNC_BYTE on the last byte of a valid frame, in one line. -/
theorem exec_syncByte_dispatch {s : State} {l b : Byte} {c : LinkCfg} {k : Link} (hl : s.HasLink l c k)
    (hc : c.kind = .stream) (hs : k.step = .bodyCrc16) (hroom : k.index.toNat < Config.maxFrame)
    (hlen : k.declaredLength.toNat + Config.overhead ≤ k.index.toNat + 1) (hcrc : bodyMatches s.cfg b k) :
    exec (.syncByte l b) s = .next { s with
      links := s.links.set l.toNat { accumulated b k with
        step := .seekSof, index := 0#16, declaredLength := 0#16
        lastSeq := (accumulated b k).scratch.read 3, records := (dispatch s.cfg (accumulated b k)).link.records
        online := true, lastAlive := s.now }
      prioMask := setPrio s.prioMask c.prio
      resp := { status := (dispatch s.cfg (accumulated b k)).status, result := .none } } := by
  rw [exec_syncByte hl hc, sync_body_match hs hroom hlen hcrc, dispatch_eq]
  rfl

/-- Settles O27: the check of the last byte is that of the frame's own bytes, and a valid frame is dispatched. -/
theorem lastByteEndsTheFrame : Obligations.LastByteEndsTheFrame := by
  intro s l b c k len id lo bytes hl hc hs hwf hdecl hlen hindex hbytes hbyte hlo hid
  subst hlo
  obtain rfl : bytes = k.scratchBytes 0 (len + 7) :=
    List.ext_getElem (by simp [Link.scratchBytes, hbytes]) fun i hi _ => by simp [hbyte, Link.scratchBytes, flatKey]
  have hmatch := bodyMatches_iff hwf hlen hindex s.cfg b
  have hroom : k.index.toNat < Config.maxFrame := by simp only [Config.maxFrame]; omega
  have hlast : k.declaredLength.toNat + Config.overhead ≤ k.index.toNat + 1 := by simp only [Config.overhead]; omega
  refine ⟨fun hbad => ?_, fun hgood => ?_⟩
  · rw [exec_syncByte_quiet hl hc (sync_body_mismatch hs hroom hlast (mt hmatch.1 hbad)), accumulated_eq hindex]
    rfl
  · have hseq := accumulated_read_of_lt (show 3 < k.index.toNat by omega) b
    have hcmd : (accumulated b k).cmdId = id := (cmdId_accumulated (by omega) b).trans hid.symm
    have honly := dispatch_onlyFrameRecord s.cfg (accumulated b k)
    have hexec := exec_syncByte_dispatch hl hc hs hroom hlast (hmatch.2 hgood)
    rw [hseq] at hexec
    refine ⟨(dispatch s.cfg (accumulated b k)).link.records, (dispatch s.cfg (accumulated b k)).status, _,
      hexec.trans ?_, setPrio_bit_iff s.prioMask c.prio, ?_, ?_⟩
    · rw [accumulated_eq hindex]
    · exact fun hnone => dispatch_of_unsubscribed (hcmd ▸ hnone)
    · intro size hsize
      have hsize : enabledSize s.cfg (accumulated b k).cmdId = some size := hcmd.symm ▸ hsize
      refine ⟨(dispatch_of_enabled hsize).1, fun hrec n hn => ?_, fun n hn => ?_, fun other n hother => ?_⟩
      · rw [← hcmd, dispatch_read hsize hrec (hdecl.symm ▸ hn)]
        exact accumulated_read_of_lt (by omega) b
      · by_contra hne
        obtain ⟨hid', size', hsize', hn'⟩ := honly id n hne
        cases hsize.symm.trans (hid' ▸ hsize')
        exact absurd hn' (Nat.not_lt.2 (hdecl.symm ▸ hn))
      · by_contra hne
        exact hother ((honly other n hne).1.trans hcmd)

/-! ### The transition table (R179) -/

/-- With a cursor as R31 and R32 say the last byte of a frame, which is no longer than `MAX_FRAME`, is stored at
`declared_length + 8`. -/
theorem lastByte_bounds {k : Link} {b : Byte} (hk : cursorOk k) (hs : k.step = .bodyCrc16)
    (hroom : k.index.toNat < Config.maxFrame)
    (hlast : k.declaredLength.toNat + Config.overhead ≤ (accumulated b k).index.toNat) :
    k.index.toNat = k.declaredLength.toNat + 8 ∧ k.declaredLength.toNat ≤ Config.lMax := by
  rw [accumulated_index hroom] at hlast
  simp only [cursorOk, hs, Config.overhead] at hk hlast
  omega

/-- Link `l` after a commit is in the step that the verdict's link is in. -/
theorem settle_hasLink_step {s : State} {l : Byte} {c : LinkCfg} {k : Link} (hl : s.HasLink l c k) (v : Verdict) :
    ∃ k', (s.settle l c v).HasLink l c k' ∧ k'.step = v.link.step := by
  rw [State.settle_eq]
  exact ⟨_, hl.update _ _ _ _, by split <;> rfl⟩

/-- With a cursor as R31 and R32 say the synchronizer answers. -/
theorem sync_some_of_cursorOk {k : Link} (hk : cursorOk k) (cfg : Config) (b : Byte) : ∃ v, sync cfg b k = some v :=
  Option.ne_none_iff_exists'.1 fun hnone => absurd (cursorOk_index hk) (Nat.not_lt.2 (sync_none hnone))

/-- Settles O28: each case of `sync_cases` is a row of the table, once its condition is read off the bytes received
before this one. -/
theorem syncTransitionsAreTheTable : Obligations.SyncTransitionsAreTheTable := by
  intro s l b c k len id isHeader isBody hl hc hk hwf hlen hid hheader hbody
  subst hlen
  obtain ⟨v, hv⟩ := sync_some_of_cursorOk hk s.cfg b
  obtain ⟨k', hl', hstep⟩ := settle_hasLink_step hl v
  refine ⟨s.settle l c v, k', by rw [exec_syncByte hl hc, hv]; rfl, hl', ?_⟩
  rw [hstep, settle_status]
  rcases sync_cases hv with ⟨hs, hb, rfl⟩ | ⟨hroom, ⟨hs, hb, rfl⟩ | ⟨hs, rfl⟩ | ⟨hs, hlong, rfl⟩ | ⟨hs, hfits, rfl⟩ |
    ⟨hs, rfl⟩ | ⟨hs, hcrc, rfl⟩ | ⟨hs, hcrc, rfl⟩ | ⟨hs, hmore, rfl⟩ | ⟨hs, hlast, hcrc, rfl⟩ | ⟨hs, hlast, hcrc, rfl⟩⟩
  · have hb : b ≠ 0xA5#8 := hb
    simp [hs, hb]
  · have hb : b = 0xA5#8 := hb
    simp [hs, hb]
  · simp [hs]
  · simp only [cursorOk, hs] at hk
    have hlong : 247 < k.declaredLength.toNat + 256 * b.toNat := by
      simp only [fullLength_toNat hk.2, Config.maxFrame, Config.overhead] at hlong
      omega
    simp [hs, hlong]
  · simp only [cursorOk, hs] at hk
    have hfits : k.declaredLength.toNat + 256 * b.toNat ≤ 247 := by
      simp only [fullLength_toNat hk.2, Config.maxFrame, Config.overhead] at hfits
      omega
    simp [hs, hfits]
  · simp [hs]
  · simp only [cursorOk, hs] at hk
    have hheader := (headerMatches_iff hk.1.ge s.cfg b).trans hheader.symm
    simp [hs, hheader.1 hcrc]
  · simp only [cursorOk, hs] at hk
    have hheader := (headerMatches_iff hk.1.ge s.cfg b).trans hheader.symm
    simp [hs, mt hheader.2 hcrc]
  · have hmore : k.index.toNat + 1 < k.declaredLength.toNat + 9 := accumulated_index hroom ▸ hmore
    have hstays : (accumulated b k).step = .bodyCrc16 := hs
    simp [hs, hmore, hstays]
  · obtain ⟨hindex, hmax⟩ := lastByte_bounds hk hs hroom hlast
    have hbody := (bodyMatches_iff hwf hmax hindex s.cfg b).trans hbody.symm
    simp [hs, mt hbody.2 hcrc, hindex]
  · obtain ⟨hindex, hmax⟩ := lastByte_bounds hk hs hroom hlast
    have hgood := ((bodyMatches_iff hwf hmax hindex s.cfg b).trans hbody.symm).1 hcrc
    have hcmd : (accumulated b k).cmdId = id := (cmdId_accumulated (by omega) b).trans hid.symm
    cases hsize : enabledSize s.cfg id with
    | none => simp [hs, hgood, hindex, (dispatch_of_unsubscribed (hcmd.symm ▸ hsize)).1]
    | some size => simp [hs, hgood, hindex, (dispatch_of_enabled (hcmd.symm ▸ hsize)).1]

/-! ### What may change a record (R182, R284, R285) -/

/-- What a decoder's verdict may do to the records of link `k`: nothing, or, with FRAME_OK, what the dispatch of the
frame in `scratch` does. -/
def Verdict.RecordsFrom (cfg : Config) (k : Link) (v : Verdict) : Prop :=
  v.link.records = k.records ∨ v.status = .frameOk ∧ (cursorOk k → k.OnlyFrameRecord cfg v.link.records)

theorem sync_recordsFrom {cfg : Config} {b : Byte} {k : Link} {v : Verdict} (h : sync cfg b k = some v) :
    v.RecordsFrom cfg k := by
  rcases sync_cases h with ⟨-, -, rfl⟩ | ⟨hroom, hrow⟩
  · exact .inl rfl
  · rcases hrow with ⟨-, -, rfl⟩ | ⟨-, rfl⟩ | ⟨-, -, rfl⟩ | ⟨-, -, rfl⟩ | ⟨-, rfl⟩ | ⟨-, -, rfl⟩ | ⟨-, -, rfl⟩ |
      ⟨-, -, rfl⟩ | ⟨-, -, -, rfl⟩ | ⟨hs, hlast, -, rfl⟩
    on_goal 10 =>
      cases hsize : enabledSize cfg (accumulated b k).cmdId with
      | none => exact .inl (dispatch_of_unsubscribed hsize).2
      | some size =>
        refine .inr ⟨(dispatch_of_enabled hsize).1, fun hk id j hne => ?_⟩
        obtain ⟨hindex, -⟩ := lastByte_bounds hk hs hroom hlast
        have hcmd := cmdId_accumulated (k := k) (by omega) b
        exact hcmd ▸ dispatch_onlyFrameRecord cfg (accumulated b k) id j hne
    all_goals exact .inl rfl

theorem decodeUnit_recordsFrom {cfg : Config} {now : Word} {kind : Kind} {unit : List Byte} {k : Link} {v : Verdict}
    (h : decodeUnit cfg now kind unit k = some v) : v.RecordsFrom cfg k := by
  cases kind with
  | fixedA =>
    obtain ⟨-, -, -, hrecords⟩ := validateA_kept cfg now unit k
    cases h
    exact .inl hrecords
  | fixedB =>
    obtain ⟨-, -, -, hrecords⟩ := validateB_kept cfg now unit k
    cases h
    exact .inl hrecords
  | stream => exact sync_recordsFrom h

/-- Operation `i` leaves the links as they are, or replaces one: that keeps its records, or `i` is a SYNC_BYTE or W_RECV
of the link that answers FRAME_OK and writes the frame's record. -/
def RecordsMove (i : Instr) (s t : State) : Prop :=
  t.links = s.links ∨ ∃ (l : Byte) (k k' : Link), s.links[l.toNat]? = some k ∧ t.links = s.links.set l.toNat k'
    ∧ (k'.records = k.records
      ∨ (i = .wRecv l ∨ ∃ b, i = .syncByte l b) ∧ t.resp.status = .frameOk
        ∧ (cursorOk k → k.OnlyFrameRecord s.cfg k'.records))

theorem RecordsMove.kept {i : Instr} {l : Byte} {s t : State} {c : LinkCfg} {k k' : Link} (hl : s.HasLink l c k)
    (hlinks : t.links = s.links.set l.toNat k') (hrecords : k'.records = k.records) : RecordsMove i s t :=
  .inr ⟨l, k, k', hl.2, hlinks, .inl hrecords⟩

theorem settle_records_kept {i : Instr} {l : Byte} {s : State} {c : LinkCfg} {k : Link} {v : Verdict}
    (hl : s.HasLink l c k) (h : v.link.records = k.records) : RecordsMove i s (s.settle l c v) := by
  rw [State.settle_eq]
  exact .kept hl rfl (by split <;> exact h)

theorem checkLive_records_kept {i : Instr} {l : Byte} {s : State} {c : LinkCfg} {k k' : Link} {lost : Bool}
    (hl : s.HasLink l c k) (h : k'.records = k.records) : RecordsMove i s (s.checkLive l c lost k') := by
  rw [State.checkLive_eq]
  exact .kept hl rfl (by split <;> exact h)

/-- A decoder's verdict committed by SYNC_BYTE or W_RECV. -/
theorem settleSync_recordsMove {i : Instr} {l : Byte} {s t : State} {c : LinkCfg} {k : Link} {o : Option Verdict}
    (hl : s.HasLink l c k) (hi : i = .wRecv l ∨ ∃ b, i = .syncByte l b)
    (hv : ∀ v, o = some v → v.RecordsFrom s.cfg k) (h : s.settleSync l c o = .next t) : RecordsMove i s t := by
  cases o with
  | none => cases h
  | some v =>
    cases h
    rcases hv v rfl with hkept | ⟨hstatus, honly⟩
    · exact settle_records_kept hl hkept
    · rw [State.settle_eq]
      exact .inr ⟨l, k, _, hl.2, rfl, .inr ⟨hi, hstatus, by split <;> exact honly⟩⟩

theorem onLink_recordsMove {i j : Instr} {l : Byte} {s t : State} {body : LinkCfg → Link → Out}
    (hb : ∀ c k, s.HasLink l c k → body c k = .next t → RecordsMove i s t) (h : onLink j l s body = .next t) :
    RecordsMove i s t := by
  rcases onLink_cases j l s body with he | ⟨c, k, -, hl, he⟩ <;> rw [he] at h
  · cases h
    exact .inl rfl
  · exact hb c k hl h

/-- EVERYTHING AN OPERATION BUT RESET CAN DO TO RECORDS. -/
theorem exec_recordsMove {i : Instr} {s t : State} (hi : i ≠ .reset) (h : exec i s = .next t) : RecordsMove i s t := by
  cases i with
  | reset => exact absurd rfl hi
  | activeSrc | crc8Verify _ | crc16Verify _ | crc8Append _ | crc16Append _ => cases h; exact .inl rfl
  | admitPrio _ | push _ _ | rx _ _ =>
    obtain ⟨_, _, _, rfl, hlinks | ⟨l, k, k', -, hk, hlinks, _, _, rfl⟩⟩ := exec_onlyReceives rfl h
    · exact .inl hlinks
    · exact .inr ⟨l, k, _, hk, hlinks, .inl rfl⟩
  | readCtrl l | readRec l c | readOnline l =>
    exact onLink_recordsMove (fun c k hl hb => by cases hb; exact .inl rfl) h
  | popTimeout l => exact onLink_recordsMove (fun c k hl hb => by split at hb <;> cases hb <;> exact .inl rfl) h
  | pop l | evalSw l e v | evalBtn l e v =>
    refine onLink_recordsMove (fun c k hl hb => ?_) h
    split at hb <;> cases hb
    · exact .kept hl rfl rfl
    · exact .inl rfl
  | markAlive l | markTimeout l =>
    exact onLink_recordsMove (fun c k hl hb => by cases hb; exact .kept hl rfl rfl) h
  | liveCheck l | wLive l =>
    exact onLink_recordsMove (fun c k hl hb => by cases hb; exact checkLive_records_kept hl rfl) h
  | validateA l frame =>
    refine onLink_recordsMove (fun c k hl hb => ?_) h
    obtain ⟨-, -, -, hrecords⟩ := validateA_kept s.cfg s.now frame k
    cases hb
    exact settle_records_kept hl hrecords
  | validateB l frame =>
    refine onLink_recordsMove (fun c k hl hb => ?_) h
    obtain ⟨-, -, -, hrecords⟩ := validateB_kept s.cfg s.now frame k
    cases hb
    exact settle_records_kept hl hrecords
  | syncByte l b =>
    exact onLink_recordsMove
      (fun c k hl hb => settleSync_recordsMove hl (.inr ⟨b, rfl⟩) (fun v => sync_recordsFrom) hb) h
  | wRecv l =>
    refine onLink_recordsMove (i := .wRecv l) (fun c k hl _ => ?_) h
    have hrecv := (exec_wRecv hl).symm.trans h
    split at hrecv
    · refine settleSync_recordsMove hl (.inl rfl) (fun v hv => ?_) hrecv
      exact decodeUnit_recordsFrom (k := k.dequeue s.cfg c) hv
    · cases hrecv
      exact .inl rfl

/-- Settles O31, from what each operation does to the records of the link it names. -/
theorem recordsChangeOnlyByDispatch : Obligations.RecordsChangeOnlyByDispatch := by
  intro i s t n k k' hi h hk hk'
  have hsame (heq : k'.records = k.records) : (t.resp.status ≠ .frameOk → k'.records = k.records)
      ∧ (k'.records ≠ k.records → ∃ l : Byte, l.toNat = n ∧ (i = .wRecv l ∨ ∃ b, i = .syncByte l b))
      ∧ (cursorOk k → k.OnlyFrameRecord s.cfg k'.records) :=
    ⟨fun _ => heq, fun hne => absurd heq hne, fun _ id j hne => absurd (by rw [heq]) hne⟩
  rcases exec_recordsMove hi h with hlinks | ⟨l, x, x', hx, hlinks, hmove⟩ <;> rw [hlinks] at hk'
  · cases hk.symm.trans hk'
    exact hsame rfl
  · by_cases hn : l.toNat = n
    · subst hn
      cases hk.symm.trans hx
      obtain ⟨-, rfl⟩ := by simpa [List.getElem?_set] using hk'
      rcases hmove with heq | ⟨hop, hstatus, honly⟩
      · exact hsame heq
      · exact ⟨fun hne => absurd hstatus hne, fun _ => ⟨l, rfl, hop⟩, honly⟩
    · cases hk.symm.trans ((List.getElem?_set_ne hn).symm.trans hk')
      exact hsame rfl

end Sys2Proof.Machine
end

section
/-! PROOF. Fixed frames and CRC (43_fixed_frame.md): the CRC checkers and appenders (R202, R207, R212, R213), what one
VALIDATE commits or discards (R203 to R205, R210, R211), W_RECV of a radio link (R261, R284) and the replay of a frame
(R214). -/

namespace Sys2Proof.Machine

/-! ### Checksums (R202, R207, R212, R213) -/

/-- CRC8_VERIFY of bytes and a trailer (R202). -/
theorem crc8Verified_append (cfg : Config) (bs : List Byte) (b : Byte) :
    crc8Verified cfg (bs ++ [b]) = (crc8 cfg bs == b) := by
  simp [crc8Verified, byteAt]

/-- CRC16_VERIFY of bytes and a trailer, low byte first (R207). -/
theorem crc16Verified_append (cfg : Config) (bs : List Byte) (b0 b1 : Byte) :
    crc16Verified cfg (bs ++ [b0, b1]) = (crc16 cfg bs == le16 b0 b1) := by
  simp [crc16Verified, halfAt, byteAt]

theorem exec_crc8Verify (bs : List Byte) (s : State) :
    exec (.crc8Verify bs) s = .next (s.respond .ok (.bit (crc8Verified s.cfg bs))) := rfl

theorem exec_crc16Verify (bs : List Byte) (s : State) :
    exec (.crc16Verify bs) s = .next (s.respond .ok (.bit (crc16Verified s.cfg bs))) := rfl

/-- Settles O39: a list with a trailer is its bytes and the trailer; shorter lists fail the length test. -/
theorem crcVerifyComparesTheTrailer : Obligations.CrcVerifyComparesTheTrailer := by
  refine fun s bs b0 b1 => ⟨rfl, rfl, rfl, rfl, rfl, ?_, rfl, rfl, ?_⟩
  · rw [exec_crc8Verify, crc8Verified_append]
    rfl
  · rw [exec_crc16Verify, crc16Verified_append]
    rfl

/-- The low byte of a half word. -/
theorem extractLsb'_low (h : Half) : h.extractLsb' 0 8 = BitVec.ofNat 8 h.toNat := by
  rw [BitVec.extractLsb', Nat.shiftRight_zero]

/-- The high byte of a half word. -/
theorem extractLsb'_high (h : Half) : h.extractLsb' 8 8 = BitVec.ofNat 8 (h.toNat / 256) := by
  rw [BitVec.extractLsb', Nat.shiftRight_eq_div_pow]

/-- A half word is the LE16 of its low and its high byte (R15). -/
theorem le16_extractLsb' (h : Half) : le16 (h.extractLsb' 0 8) (h.extractLsb' 8 8) = h := by
  apply BitVec.eq_of_getLsbD_eq
  intro i hi
  simp only [le16, BitVec.getLsbD_or, BitVec.getLsbD_shiftLeft, BitVec.getLsbD_setWidth, BitVec.getLsbD_extractLsb']
  by_cases hlow : i < 8
  · simp [hlow, hi]
  · have hhigh : i - 8 < 8 ∧ i - 8 < 16 ∧ 8 + (i - 8) = i := by omega
    simp [hlow, hi, hhigh]

/-- Settles O40: the checker compares the function's value with itself. -/
theorem crcAppendThenVerify : Obligations.CrcAppendThenVerify := by
  refine fun s bs => ⟨rfl, rfl, rfl, rfl, ⟨_, rfl, rfl, ?_⟩, _, _, extractLsb'_low _, extractLsb'_high _, rfl, ?_⟩
  · rw [exec_crc8Verify, crc8Verified_append, beq_self_eq_true]
    rfl
  · rw [exec_crc16Verify, crc16Verified_append, le16_extractLsb', beq_self_eq_true]
    rfl

/-! ### The checks of a frame (R203, R204, R205) -/

theorem rangeOk_iff {cfg : Config} {x : Fields} : rangeOk cfg x = true ↔
    ∀ ch ∈ [x.ch0, x.ch1, x.ch2, x.ch3], cfg.chMin ≤ ch.toNat ∧ ch.toNat ≤ cfg.chMax := by
  simp only [rangeOk, List.all_eq_true, Bool.and_eq_true, decide_eq_true_eq]

/-- One channel outside the bounds fails the frame (R205). -/
theorem rangeOk_eq_false {cfg : Config} {x : Fields}
    (h : ∃ ch ∈ [x.ch0, x.ch1, x.ch2, x.ch3], ch.toNat < cfg.chMin ∨ cfg.chMax < ch.toNat) : rangeOk cfg x = false := by
  refine Bool.eq_false_iff.2 fun hok => ?_
  obtain ⟨ch, hmem, hout⟩ := h
  obtain ⟨hmin, hmax⟩ := rangeOk_iff.1 hok ch hmem
  omega

section Checks

variable {cfg : Config} {f : List Byte} (now : Word) (k : Link)

theorem validateA_badLen (hlen : f.length ≠ Config.frameLenA) : validateA cfg now f k = discarded k .badLen :=
  if_pos hlen

theorem validateA_badRange (hlen : f.length = Config.frameLenA) (hrange : rangeOk cfg (extractA f) = false) :
    validateA cfg now f k = discarded k .badRange := by
  simp [validateA, hlen, hrange]

theorem validateA_commits (hlen : f.length = Config.frameLenA) (hrange : rangeOk cfg (extractA f) = true) :
    validateA cfg now f k = committed cfg .fixedA now (extractA f) k := by
  simp [validateA, hlen, hrange]

theorem validateB_badLen (hlen : f.length ≠ cfg.bLen) : validateB cfg now f k = discarded k .badLen :=
  if_pos hlen

theorem validateB_badCrc16 (hlen : f.length = cfg.bLen) (hcrc : crc16Verified cfg f = false) :
    validateB cfg now f k = discarded k .badCrc16 := by
  simp [validateB, hlen, hcrc]

theorem validateB_badRange (hlen : f.length = cfg.bLen) (hcrc : crc16Verified cfg f = true)
    (hrange : rangeOk cfg (extractB cfg f) = false) : validateB cfg now f k = discarded k .badRange := by
  simp [validateB, hlen, hcrc, hrange]

theorem validateB_commits (hlen : f.length = cfg.bLen) (hcrc : crc16Verified cfg f = true)
    (hrange : rangeOk cfg (extractB cfg f) = true) :
    validateB cfg now f k = committed cfg .fixedB now (extractB cfg f) k := by
  simp [validateB, hlen, hcrc, hrange]

end Checks

/-! ### Discarding and committing a frame (R210, R211) -/

/-- A discarded frame answers its status and nothing else (R211). -/
theorem settle_discarded {s : State} {l : Byte} {c : LinkCfg} {k : Link} (hl : s.HasLink l c k) (st : Status) :
    s.settle l c (discarded k st) = s.respond st .none :=
  State.update_self hl st .none

/-- A committed frame writes the control store and makes the link alive (R210). -/
theorem settle_committed (s : State) (l : Byte) (c : LinkCfg) (cfg : Config) (kind : Kind) (now : Word) (x : Fields)
    (k : Link) : s.settle l c (committed cfg kind now x k) =
      s.update l { k with ctrl := k.ctrl.commit cfg kind now x, online := true, lastAlive := s.now }
        (setPrio s.prioMask c.prio) .ok .none := rfl

/-- An entry with an operand is evaluated once against it. -/
theorem evalEach_getElem?_of_some {α : Type} {f : α → Entry → Entry} {as : List α} {es : List Entry} {n : Nat} {a : α}
    (ha : as[n]? = some a) : (evalEach f as es)[n]? = es[n]?.map (f a) := by
  rw [evalEach_getElem?, ha]
  cases es[n]? <;> rfl

/-! The operand of each button entry (R37, R106, R210). -/

theorem buttonLevels_key (cfg : Config) (kind : Kind) (x : Fields) {j : Nat} (hj : j < 16) :
    (buttonLevels cfg kind x)[j]? = some (x.keys.getLsbD j) := by
  simp [buttonLevels, hj, Nat.lt_add_right]

theorem buttonLevels_mbtn0 (cfg : Config) (kind : Kind) (x : Fields) :
    (buttonLevels cfg kind x)[16]? = some (x.mbtn0 != 0#8) := rfl

theorem buttonLevels_mbtn1 (cfg : Config) (kind : Kind) (x : Fields) :
    (buttonLevels cfg kind x)[17]? = some (x.mbtn1 != 0#8) := rfl

theorem buttonLevels_fn (cfg : Config) (x : Fields) {j : Nat} (hj : j < cfg.nFn) :
    (buttonLevels cfg .fixedB x)[18 + j]? = some (x.fn.getLsbD j) := by
  have hrest : ((List.range 16).map x.keys.getLsbD ++ [x.mbtn0 != 0#8, x.mbtn1 != 0#8]).length ≤ 18 + j := by simp
  rw [buttonLevels, List.getElem?_append_right hrest]
  simp [hj]

/-- Settles O35, by the outcomes of VALIDATE_A. -/
theorem validateADecodesOrDiscards : Obligations.ValidateADecodesOrDiscards := by
  rintro s l c k f x hl hc rfl
  rw [exec_validateA hl hc]
  refine ⟨fun hlen => ?_, fun hlen hout => ?_, fun hlen hin => ?_⟩
  · rw [validateA_badLen _ _ hlen, settle_discarded hl]
    rfl
  · rw [validateA_badRange _ _ hlen (rangeOk_eq_false hout), settle_discarded hl]
    rfl
  · rw [validateA_commits _ _ hlen (rangeOk_iff.2 hin), settle_committed]
    exact ⟨_, _, rfl, setPrio_bit_iff s.prioMask c.prio, rfl, rfl, rfl, rfl, rfl, rfl, rfl, rfl, rfl, rfl, rfl,
      evalEach_length .., evalEach_length .., evalEach_getElem?_of_some rfl, evalEach_getElem?_of_some rfl,
      fun j hj => evalEach_getElem?_of_some (buttonLevels_key _ _ _ hj),
      evalEach_getElem?_of_some (buttonLevels_mbtn0 ..), evalEach_getElem?_of_some (buttonLevels_mbtn1 ..)⟩

/-- Settles O36, by the outcomes of VALIDATE_B. -/
theorem validateBDecodesOrDiscards : Obligations.ValidateBDecodesOrDiscards := by
  rintro s l c k f x isGood hl hc rfl rfl
  rw [exec_validateB hl hc]
  refine ⟨fun hlen => ?_, fun hlen hcrc => ?_, fun hlen hcrc hout => ?_, fun hlen hcrc hin => ?_⟩
  · rw [validateB_badLen _ _ hlen, settle_discarded hl]
    rfl
  · rw [validateB_badCrc16 _ _ hlen hcrc, settle_discarded hl]
    rfl
  · rw [validateB_badRange _ _ hlen hcrc (rangeOk_eq_false hout), settle_discarded hl]
    rfl
  · rw [validateB_commits _ _ hlen hcrc (rangeOk_iff.2 hin), settle_committed]
    exact ⟨_, _, rfl, setPrio_bit_iff s.prioMask c.prio, rfl, rfl, rfl, rfl, rfl, rfl, rfl, rfl, rfl, rfl, rfl,
      evalEach_length .., evalEach_length .., evalEach_getElem?_of_some rfl,
      fun j hj => evalEach_getElem?_of_some (buttonLevels_key _ _ _ hj),
      evalEach_getElem?_of_some (buttonLevels_mbtn0 ..), evalEach_getElem?_of_some (buttonLevels_mbtn1 ..),
      fun j hj => evalEach_getElem?_of_some (buttonLevels_fn _ _ hj)⟩

/-! ### The frame alone decides (R211, R214) -/

/-- A radio link's decoder discards or commits a frame whatever the clock and the link are, and commits the same fields. -/
theorem decodeUnit_radio (cfg : Config) {kind : Kind} (hkind : kind ≠ .stream) (f : List Byte) :
    (∃ st, st ≠ .ok ∧ ∀ now k, decodeUnit cfg now kind f k = some (discarded k st))
    ∨ ∃ x, ∀ now k, decodeUnit cfg now kind f k = some (committed cfg kind now x k) := by
  cases kind with
  | stream => exact absurd rfl hkind
  | fixedA =>
    by_cases hlen : f.length = Config.frameLenA
    · cases hrange : rangeOk cfg (extractA f) with
      | false => exact .inl ⟨.badRange, nofun, fun now k => congrArg some (validateA_badRange now k hlen hrange)⟩
      | true => exact .inr ⟨_, fun now k => congrArg some (validateA_commits now k hlen hrange)⟩
    · exact .inl ⟨.badLen, nofun, fun now k => congrArg some (validateA_badLen now k hlen)⟩
  | fixedB =>
    by_cases hlen : f.length = cfg.bLen
    · cases hcrc : crc16Verified cfg f with
      | false => exact .inl ⟨.badCrc16, nofun, fun now k => congrArg some (validateB_badCrc16 now k hlen hcrc)⟩
      | true =>
        cases hrange : rangeOk cfg (extractB cfg f) with
        | false => exact .inl ⟨.badRange, nofun, fun now k => congrArg some (validateB_badRange now k hlen hcrc hrange)⟩
        | true => exact .inr ⟨_, fun now k => congrArg some (validateB_commits now k hlen hcrc hrange)⟩
    · exact .inl ⟨.badLen, nofun, fun now k => congrArg some (validateB_badLen now k hlen)⟩

/-- A VALIDATE is illegal, or is the operation of the decoder of a radio link. -/
theorem validate_decoderOp {i : Instr} {l : Byte} {f : List Byte} (hi : i = .validateA l f ∨ i = .validateB l f)
    (s : State) : exec i s = .next (s.respond .illegalOp .none)
      ∨ ∃ c k, s.HasLink l c k ∧ c.kind ≠ .stream ∧ i = decoderOp l c.kind f := by
  rcases hi with rfl | rfl
  all_goals
    refine (onLink_cases _ l s _).imp id fun ⟨c, k, hlegal, hl, _⟩ => ⟨c, k, hl, ?_⟩
    have hkind := legal_kind hlegal rfl hl
    rw [beq_iff_eq.1 hkind]
    exact ⟨nofun, rfl⟩

/-- A commit answers OK, and the link then has the committed control store. -/
theorem settle_committed_hasLink {s : State} {l : Byte} {c : LinkCfg} {k : Link} (hl : s.HasLink l c k) (cfg : Config)
    (kind : Kind) (now : Word) (x : Fields) :
    ∃ k', (s.settle l c (committed cfg kind now x k)).HasLink l c k' ∧ k'.ctrl = k.ctrl.commit cfg kind now x :=
  ⟨_, hl.update _ _ _ _, rfl⟩

/-- EVERYTHING A VALIDATE CAN DO: fail and change nothing; or commit the fields of its frame, the same ones in every state
with that configuration and that link. -/
theorem exec_validate_cases {i : Instr} {l : Byte} {f : List Byte} (hi : i = .validateA l f ∨ i = .validateB l f)
    (s : State) : (∃ st, st ≠ .ok ∧ exec i s = .next (s.respond st .none))
      ∨ ∃ c k x, s.HasLink l c k ∧ ∀ (t : State) (a : Link), t.cfg = s.cfg → t.HasLink l c a →
        ∃ u b, exec i t = .next u ∧ u.resp.status = .ok ∧ u.cfg = s.cfg ∧ u.HasLink l c b
          ∧ b.ctrl = a.ctrl.commit s.cfg c.kind t.now x := by
  rcases validate_decoderOp hi s with hill | ⟨c, k, hl, hkind, rfl⟩
  · exact .inl ⟨.illegalOp, nofun, hill⟩
  · rcases decodeUnit_radio s.cfg hkind f with ⟨st, hst, hdec⟩ | ⟨x, hdec⟩
    · refine .inl ⟨st, hst, ?_⟩
      rw [exec_decoderOp hl, hdec, State.settleSync, settle_discarded hl]
    · refine .inr ⟨c, k, x, hl, fun t a hcfg hla => ?_⟩
      obtain ⟨b, hlb, hctrl⟩ := settle_committed_hasLink hla s.cfg c.kind t.now x
      refine ⟨t.settle l c (committed s.cfg c.kind t.now x a), b, ?_, rfl, hcfg, hlb, hctrl⟩
      rw [exec_decoderOp hla, hcfg, hdec, State.settleSync]

/-- Settles O37: a VALIDATE that fails only answers, and W_RECV fails without a unit or with a unit discarded. -/
theorem failedValidationChangesNothing : Obligations.FailedValidationChangesNothing := by
  intro s t l f hstatus
  have hvalidate {i : Instr} (hi : i = .validateA l f ∨ i = .validateB l f) (h : exec i s = .next t) :
      { t with resp := s.resp } = s := by
    rcases exec_validate_cases hi s with ⟨st, -, hexec⟩ | ⟨c, k, x, hl, hcommits⟩
    · cases h.symm.trans hexec
      rfl
    · obtain ⟨u, -, hexec, hok, -⟩ := hcommits s k rfl hl
      cases h.symm.trans hexec
      exact absurd hok hstatus
  refine ⟨fun h => h.elim (hvalidate (.inl rfl)) (hvalidate (.inr rfl)), fun c k hl hkind h => ?_⟩
  rw [exec_wRecv hl] at h
  split at h
  · rcases decodeUnit_radio s.cfg hkind (popped s.cfg c k) with ⟨st, -, hdec⟩ | ⟨x, hdec⟩
    · rw [hdec] at h
      cases h
      exact ⟨_, rfl⟩
    · rw [hdec] at h
      cases h
      exact absurd rfl hstatus
  · cases h
    exact ⟨k.q, congrArg (fun t : State => { t with resp := s.resp }) (State.update_self hl .notReady .none).symm⟩

/-- Committing the same fields once more leaves the scalar fields (R214). -/
theorem Ctrl.commit_commit_scalars (cfg : Config) (kind : Kind) (now now' : Word) (x : Fields) (d : Ctrl) :
    { (d.commit cfg kind now x).commit cfg kind now' x with sw := [], btn := [] } =
      { d.commit cfg kind now x with sw := [], btn := [] } := by
  cases kind <;> rfl

/-- Settles O38: the second decode commits the fields of the first. -/
theorem replayKeepsScalarFields : Obligations.ReplayKeepsScalarFields := by
  intro s t u l f n i a b hi ht hok hu ha hb
  rcases exec_validate_cases hi s with ⟨st, hst, hexec⟩ | ⟨c, k, x, hl, hcommits⟩
  · cases ht.symm.trans hexec
    exact absurd hok hst
  · obtain ⟨t', a', hexec, -, hcfg, hla, hactrl⟩ := hcommits s k rfl hl
    cases ht.symm.trans hexec
    cases ha.symm.trans hla.2
    obtain ⟨u', b', hexec', hok', -, hlb, hbctrl⟩ := hcommits { t with now := n } a hcfg hla
    cases hu.symm.trans hexec'
    cases hb.symm.trans hlb.2
    rw [hbctrl, hactrl]
    exact ⟨hok', Ctrl.commit_commit_scalars ..⟩

end Sys2Proof.Machine
end

section
/-! PROOF. Debounce (44_debounce.md): the filter of R231 and R232, one EVAL_SW, each of the six branches of EVAL_BTN (R235 to
R241), the logical states of a button and their transitions (R242), and glitches and holds (R245). -/

namespace Sys2Proof.Machine

/-! ### The filter (R231, R232) -/

theorem Entry.present_eq (v : BitVec 2) (now : Word) (e : Entry) : e.present v now =
    { e with rawState := v, changeTime := if v = e.rawState then e.changeTime else now } := by
  unfold Entry.present
  by_cases hv : v = e.rawState
  · rw [if_neg (not_not.2 hv), if_pos hv, hv]
  · rw [if_pos hv, if_neg hv]

/-- A code that is presented again changes nothing. -/
theorem Entry.present_of_eq {v : BitVec 2} {e : Entry} (hv : v = e.rawState) (now : Word) : e.present v now = e :=
  if_neg (not_not.2 hv)

theorem present_accepts_iff (t : Nat) (now : Word) (v : BitVec 2) (e : Entry) :
    (e.present v now).accepts t now = true ↔
      v ≠ e.stableState ∧ t ≤ elapsed now (if v = e.rawState then e.changeTime else now) := by
  rw [Entry.present_eq, accepts_iff]

/-- The accepted code itself is not accepted again. -/
theorem not_accepts_of_stable {e : Entry} (h : e.rawState = e.stableState) (t : Nat) (now : Word) :
    ¬ e.accepts t now = true := fun hacc => ((accepts_iff _ _ _).1 hacc).1 h

/-- A code is not accepted at the evaluation that first sees it, unless the interval is 0. -/
theorem not_accepts_of_new {t : Nat} {v : BitVec 2} {e : Entry} (ht : 0 < t) (hv : v ≠ e.rawState) (now : Word) :
    ¬ (e.present v now).accepts t now = true := by
  intro hacc
  obtain ⟨-, hle⟩ := (present_accepts_iff _ _ _ _).1 hacc
  rw [if_neg hv, elapsed, BitVec.sub_self] at hle
  exact Nat.not_le.2 ht hle

/-! ### EVAL_SW (R231) -/

theorem evalSwitch_of_accepts {cfg : Config} {now : Word} {v : BitVec 2} {e : Entry}
    (h : (e.present v now).accepts cfg.tDebounceSw now = true) : evalSwitch cfg now v e =
      { e.present v now with event := edgeEvent e.stableState v, stableState := v, changeTime := now } := by
  rcases evalSwitch_cases cfg now v e with ⟨-, he⟩ | ⟨hacc, -⟩
  · exact he
  · exact absurd h (Bool.eq_false_iff.1 hacc)

theorem evalSwitch_of_not_accepts {cfg : Config} {now : Word} {v : BitVec 2} {e : Entry}
    (h : ¬ (e.present v now).accepts cfg.tDebounceSw now = true) :
    evalSwitch cfg now v e = { e.present v now with event := Event.idle } := by
  rcases evalSwitch_cases cfg now v e with ⟨hacc, -⟩ | ⟨-, he⟩
  · exact absurd hacc h
  · exact he

theorem isRadio_of_ne_stream {kind : Kind} (h : kind ≠ .stream) : kind.isRadio = true := by
  cases kind with
  | stream => exact absurd rfl h
  | _ => rfl

/-- EVAL_SW evaluates its entry and replaces it. -/
theorem exec_evalSw {s : State} {l e : Byte} {c : LinkCfg} {k : Link} {x : Entry} (hl : s.HasLink l c k)
    (he : e.toNat < switchCount c.kind) (hx : k.ctrl.sw[e.toNat]? = some x) (v : BitVec 2) :
    exec (.evalSw l e v) s =
      .next (s.update l (k.withSw (k.ctrl.sw.set e.toNat (evalSwitch s.cfg s.now v x))) s.prioMask .ok .none) := by
  have hkind : c.kind ≠ .stream := fun hk => by simp [hk, switchCount] at he
  have hlegal : legal s.cfg (.evalSw l e v) = true :=
    linkIs_iff.2 ⟨c, hl.1, Bool.and_eq_true_iff.2 ⟨isRadio_of_ne_stream hkind, decide_eq_true he⟩⟩
  refine (onLink_run hlegal hl : execEvalSw l e v s = _).trans ?_
  rw [hx]

/-- Settles O41: the filter accepts the code, or it does not. -/
theorem evalSwReportsAcceptedEdges : Obligations.EvalSwReportsAcceptedEdges := by
  rintro s l e v c k x since hl he hx rfl
  have haccepts := present_accepts_iff s.cfg.tDebounceSw s.now v x
  refine ⟨rfl, rfl, _, exec_evalSw hl he hx v, fun hne hpersisted => ?_, fun hkept => ?_⟩
  · rw [evalSwitch_of_accepts (haccepts.2 ⟨hne, hpersisted⟩), Entry.present_eq]
    rfl
  · have hnot : ¬ (x.present v s.now).accepts s.cfg.tDebounceSw s.now = true := fun hacc =>
      hkept.elim (haccepts.1 hacc).1 (Nat.not_lt.2 (haccepts.1 hacc).2)
    rw [evalSwitch_of_not_accepts hnot, Entry.present_eq]
    rfl

/-! ### The six branches of EVAL_BTN (R235 to R241) -/

section Branches

/-- Branch 1's condition: the window of a pending click has run out (R236). -/
def Entry.WindowOver (cfg : Config) (now : Word) (e : Entry) : Prop :=
  e.pending = true ∧ cfg.tRepeat ≤ elapsed now e.releaseTime

variable {cfg : Config} {now : Word} {inHold : Bool} {e : Entry}

theorem not_windowOver (h : e.pending = false) : ¬ e.WindowOver cfg now := fun hover =>
  Bool.false_ne_true (h.symm.trans hover.1)

theorem classify_of_windowOver (h : e.WindowOver cfg now) : e.classify cfg now inHold = e.windowExpired :=
  if_pos (by simpa [Entry.WindowOver] using h)

/-- The branches after the first. -/
theorem classify_of_not_windowOver (h : ¬ e.WindowOver cfg now) : e.classify cfg now inHold =
    if e.accepts cfg.tDebounceBtn now = true ∧ e.rawState = 1#2 then e.rise now
    else if e.accepts cfg.tDebounceBtn now = true ∧ e.rawState = 0#2 then e.fall now inHold
    else if e.stableState = 1#2 ∧ inHold = true then e.keepHold now
    else if e.stableState = 1#2 ∧ cfg.tHold ≤ elapsed now e.pressTime then e.enterHold now
    else { e with event := Event.idle } := by
  simp only [Entry.classify, Bool.and_eq_true, decide_eq_true_eq, beq_iff_eq]
  exact if_neg h

theorem classify_of_accepted_one (hw : ¬ e.WindowOver cfg now) (hacc : e.accepts cfg.tDebounceBtn now = true)
    (hraw : e.rawState = 1#2) : e.classify cfg now inHold = e.rise now := by
  rw [classify_of_not_windowOver hw, if_pos ⟨hacc, hraw⟩]

theorem classify_of_accepted_zero (hw : ¬ e.WindowOver cfg now) (hacc : e.accepts cfg.tDebounceBtn now = true)
    (hraw : e.rawState = 0#2) : e.classify cfg now inHold = e.fall now inHold := by
  rw [classify_of_not_windowOver hw, if_neg (by simp [hraw]), if_pos ⟨hacc, hraw⟩]

/-- The branches after the filter's. -/
theorem classify_of_not_accepted (hw : ¬ e.WindowOver cfg now) (hacc : ¬ e.accepts cfg.tDebounceBtn now = true) :
    e.classify cfg now inHold =
      if e.stableState = 1#2 ∧ inHold = true then e.keepHold now
      else if e.stableState = 1#2 ∧ cfg.tHold ≤ elapsed now e.pressTime then e.enterHold now
      else { e with event := Event.idle } := by
  rw [classify_of_not_windowOver hw, if_neg fun h => hacc h.1, if_neg fun h => hacc h.1]

theorem classify_of_held (hw : ¬ e.WindowOver cfg now) (hacc : ¬ e.accepts cfg.tDebounceBtn now = true)
    (hdown : e.stableState = 1#2) (hhold : inHold = true) : e.classify cfg now inHold = e.keepHold now := by
  rw [classify_of_not_accepted hw hacc, if_pos ⟨hdown, hhold⟩]

theorem classify_of_threshold (hw : ¬ e.WindowOver cfg now) (hacc : ¬ e.accepts cfg.tDebounceBtn now = true)
    (hdown : e.stableState = 1#2) (hhold : ¬ inHold = true) (hlong : cfg.tHold ≤ elapsed now e.pressTime) :
    e.classify cfg now inHold = e.enterHold now := by
  rw [classify_of_not_accepted hw hacc, if_neg fun h => hhold h.2, if_pos ⟨hdown, hlong⟩]

theorem classify_of_quiet (hw : ¬ e.WindowOver cfg now) (hacc : ¬ e.accepts cfg.tDebounceBtn now = true)
    (hquiet : e.stableState ≠ 1#2 ∨ ¬ inHold = true ∧ elapsed now e.pressTime < cfg.tHold) :
    e.classify cfg now inHold = { e with event := Event.idle } := by
  have hkeep : ¬ (e.stableState = 1#2 ∧ inHold = true) := fun h => hquiet.elim (· h.1) (·.1 h.2)
  have henter : ¬ (e.stableState = 1#2 ∧ cfg.tHold ≤ elapsed now e.pressTime) := fun h =>
    hquiet.elim (· h.1) (Nat.not_le.2 ·.2 h.2)
  rw [classify_of_not_accepted hw hacc, if_neg hkeep, if_neg henter]

end Branches

/-- `repeat_count` counts up to 255 and stays there (R237, R243). -/
theorem countUp_toNat (n : BitVec 8) : (countUp n).toNat = min (n.toNat + 1) 255 := by
  unfold countUp
  split
  · rename_i hn
    rw [hn]
    rfl
  · bv_omega

/-- Branch 2 with `repeat_count` computed as a number. -/
theorem Entry.rise_eq (now : Word) (e : Entry) : e.rise now =
    { e with
      stableState := 1#2
      repeatCount := BitVec.ofNat 8 (if e.pending then min (e.repeatCount.toNat + 1) 255 else 1)
      pending := false
      pressTime := now
      holdTime := 0#32
      event := risingEvent } := by
  rw [Entry.rise, ← countUp_toNat]
  cases e.pending with
  | false => rfl
  | true => simp only [if_true, BitVec.ofNat_toNat, BitVec.setWidth_eq]

/-- EVAL_BTN evaluates its entry and replaces it. -/
theorem exec_evalBtn {s : State} {l j : Byte} {c : LinkCfg} {k : Link} {x : Entry} (hl : s.HasLink l c k)
    (hj : j.toNat < buttonCount s.cfg c.kind) (hx : k.ctrl.btn[j.toNat]? = some x) (v : Bool) :
    exec (.evalBtn l j v) s =
      .next (s.update l (k.withBtn (k.ctrl.btn.set j.toNat (evalButton s.cfg s.now v x))) s.prioMask .ok .none) := by
  have hkind : c.kind ≠ .stream := fun hk => by simp [hk, buttonCount] at hj
  have hlegal : legal s.cfg (.evalBtn l j v) = true :=
    linkIs_iff.2 ⟨c, hl.1, Bool.and_eq_true_iff.2 ⟨isRadio_of_ne_stream hkind, decide_eq_true hj⟩⟩
  refine (onLink_run hlegal hl : execEvalBtn l j v s = _).trans ?_
  rw [hx]

/-- Settles O42, by the condition of each branch on the entry to which the level has been presented. -/
theorem evalBtnTakesTheFirstBranch : Obligations.EvalBtnTakesTheFirstBranch := by
  rintro s l j v c k x raw since accept inHold hl hj hx rfl rfl haccept hhold
  have hacc : (x.present (levelCode v) s.now).accepts s.cfg.tDebounceBtn s.now = true ↔ accept :=
    (present_accepts_iff ..).trans haccept.symm
  have hin : decide (x.event.kind = .held) = true ↔ inHold := decide_eq_true_iff.trans hhold.symm
  refine ⟨_, exec_evalBtn hl hj hx v, ?_⟩
  rw [evalButton]
  rw [Entry.present_eq] at hacc ⊢
  refine ⟨fun hw => classify_of_windowOver hw, fun hw => ⟨
    fun ha hraw => Eq.trans (classify_of_accepted_one hw (hacc.2 ha) hraw) (Entry.rise_eq _ _),
    fun ha hraw held hheld => ?_,
    fun ha hdown hi => classify_of_held hw (hacc.not.2 ha) hdown (hin.2 hi),
    fun ha hdown hi hlong => classify_of_threshold hw (hacc.not.2 ha) hdown (hin.not.2 hi) hlong,
    fun ha hquiet => classify_of_quiet hw (hacc.not.2 ha) (hquiet.imp_right (And.imp_left hin.not.2))⟩⟩
  obtain rfl : held = decide (x.event.kind = .held) := Bool.eq_iff_iff.2 (hheld.trans hin.symm)
  exact classify_of_accepted_zero hw (hacc.2 ha) hraw

/-! ### The logical states of a button (R242) -/

/-- A code whose bit 1 is 0 is a level (R232). -/
theorem eq_zero_or_one_of_bit1 : ∀ {c : BitVec 2}, c.getLsbD 1 = false → c = 0#2 ∨ c = 1#2 := by decide

/-- A click is pending only while the button is released (R39). -/
theorem pending_eq_false_of_pressed {e : Entry} (h : buttonOk e) (hs : e.stableState = 1#2) : e.pending = false := by
  obtain ⟨-, hpending, -⟩ := h
  exact Bool.eq_false_iff.2 fun hp => absurd (hs.symm.trans (hpending hp)) (by decide)

/-- The four logical states, IDLE, DOWN, HOLD and PENDING: R39 leaves no other. -/
theorem buttonOk_logicalState {e : Entry} (h : buttonOk e) :
    (e.stableState = 0#2 ∧ e.event.kind ≠ .held ∧ e.pending = false)
    ∨ (e.stableState = 1#2 ∧ e.event.kind ≠ .held ∧ e.pending = false)
    ∨ (e.stableState = 1#2 ∧ e.event.kind = .held ∧ e.pending = false)
    ∨ (e.stableState = 0#2 ∧ e.event.kind ≠ .held ∧ e.pending = true) := by
  have hp := pending_eq_false_of_pressed h
  obtain ⟨-, -, hheld, -, hbit1⟩ := h
  rcases eq_zero_or_one_of_bit1 hbit1 with hs | hs
  · have hkind : e.event.kind ≠ .held := fun hk => absurd (hs.symm.trans (hheld hk)) (by decide)
    cases hp : e.pending with
    | false => exact .inl ⟨hs, hkind, rfl⟩
    | true => exact .inr (.inr (.inr ⟨hs, hkind, rfl⟩))
  · by_cases hkind : e.event.kind = .held
    · exact .inr (.inr (.inl ⟨hs, hkind, hp hs⟩))
    · exact .inr (.inl ⟨hs, hkind, hp hs⟩)

section Rows

variable {cfg : Config} {now : Word} {inHold : Bool} {e : Entry}

/-- The rows of a released button: the window closes, a level 1 is accepted, or nothing happens. -/
theorem classify_released (hs : e.stableState = 0#2) (hlevel : e.rawState.getLsbD 1 = false) :
    (e.pending = true ∧ e.classify cfg now inHold = e.windowExpired) ∨ e.classify cfg now inHold = e.rise now
      ∨ e.classify cfg now inHold = { e with event := Event.idle } := by
  by_cases hw : e.WindowOver cfg now
  · exact .inl ⟨hw.1, classify_of_windowOver hw⟩
  · by_cases hacc : e.accepts cfg.tDebounceBtn now = true
    · have hne : e.rawState ≠ 0#2 := hs ▸ ((accepts_iff _ _ _).1 hacc).1
      exact .inr (.inl (classify_of_accepted_one hw hacc ((eq_zero_or_one_of_bit1 hlevel).resolve_left hne)))
    · exact .inr (.inr (classify_of_quiet hw hacc (.inl (by simp [hs]))))

/-- The rows of a pressed button: a level 0 is accepted, a hold continues, a hold begins, or nothing happens. -/
theorem classify_pressed (hs : e.stableState = 1#2) (hp : e.pending = false) (hlevel : e.rawState.getLsbD 1 = false) :
    e.classify cfg now inHold = e.fall now inHold ∨ (inHold = true ∧ e.classify cfg now inHold = e.keepHold now)
      ∨ (inHold = false ∧ (e.classify cfg now inHold = e.enterHold now
        ∨ e.classify cfg now inHold = { e with event := Event.idle })) := by
  have hw : ¬ e.WindowOver cfg now := not_windowOver hp
  by_cases hacc : e.accepts cfg.tDebounceBtn now = true
  · have hne : e.rawState ≠ 1#2 := hs ▸ ((accepts_iff _ _ _).1 hacc).1
    exact .inl (classify_of_accepted_zero hw hacc ((eq_zero_or_one_of_bit1 hlevel).resolve_right hne))
  · cases hi : inHold with
    | true => exact .inr (.inl ⟨rfl, classify_of_held hw hacc hs rfl⟩)
    | false =>
      refine .inr (.inr ⟨rfl, ?_⟩)
      rcases le_or_gt cfg.tHold (elapsed now e.pressTime) with hlong | hshort
      · exact .inl (classify_of_threshold hw hacc hs Bool.false_ne_true hlong)
      · exact .inr (classify_of_quiet hw hacc (.inr ⟨Bool.false_ne_true, hshort⟩))

end Rows

/-- Settles O43, by the logical state of the entry and the rows of the table for it. -/
theorem buttonTransitionsAreTheTable : Obligations.ButtonTransitionsAreTheTable := by
  rintro cfg now v e e' hok rfl
  have hlevel : (e.present (levelCode v) now).rawState.getLsbD 1 = false := by simpa using levelCode_bit1 v
  have hreleased (hs : e.stableState = 0#2) := classify_released (cfg := cfg) (now := now)
    (inHold := decide (e.event.kind = .held)) ((Entry.present_stableState _ now e).trans hs) hlevel
  have hpressed (hs : e.stableState = 1#2) (hp : e.pending = false) := classify_pressed (cfg := cfg) (now := now)
    (inHold := decide (e.event.kind = .held)) ((Entry.present_stableState _ now e).trans hs)
    ((Entry.present_pending _ now e).trans hp) hlevel
  rw [evalButton]
  rcases buttonOk_logicalState hok with ⟨hs, hk, hp⟩ | ⟨hs, hk, hp⟩ | ⟨hs, hk, hp⟩ | ⟨hs, hk, hp⟩
  · refine .inl ⟨hs, hk, hp, ?_⟩
    rcases hreleased hs with ⟨hpend, -⟩ | he | he
    · simp [hp] at hpend
    · rw [he]
      exact .inl (by simp [hp, risingEvent])
    · rw [he]
      exact .inr (by simp [hs, hp, Event.idle])
  · refine .inr (.inl ⟨hs, hk, hp, ?_⟩)
    rcases hpressed hs hp with he | ⟨hi, -⟩ | ⟨-, he | he⟩
    · rw [he]
      exact .inl (by simp [hk, fallingEvent])
    · exact absurd (of_decide_eq_true hi) hk
    · rw [he]
      exact .inr (.inl (by simp [hs, hp, heldEvent]))
    · rw [he]
      exact .inr (.inr (by simp [hs, hp, Event.idle]))
  · refine .inr (.inr (.inl ⟨hs, hk, hp, ?_⟩))
    rcases hpressed hs hp with he | ⟨-, he⟩ | ⟨hi, -⟩
    · rw [he]
      exact .inl (by simp [hk, fallingEvent])
    · rw [he]
      exact .inr (by simp [hs, hp, heldEvent])
    · exact absurd hk (of_decide_eq_false hi)
  · refine .inr (.inr (.inr ⟨hs, hk, hp, ?_⟩))
    rcases hreleased hs with ⟨-, he⟩ | he | he
    · rw [he]
      exact .inl (by simp [hs, pressedEvent])
    · rw [he]
      exact .inr (.inl (by simp [hp, risingEvent, countUp_toNat]))
    · rw [he]
      exact .inr (.inr (by simp [hs, hp, Event.idle]))

/-! ### Glitches and holds (R245) -/

/-- A released button with no click pending and no code accepted only stores the level. -/
theorem evalButton_of_released {cfg : Config} {now : Word} {v : Bool} {e : Entry} (hs : e.stableState = 0#2)
    (hp : e.pending = false) (hacc : ¬ (e.present (levelCode v) now).accepts cfg.tDebounceBtn now = true) :
    evalButton cfg now v e = { e.present (levelCode v) now with event := Event.idle } :=
  classify_of_quiet (not_windowOver (by simpa using hp)) hacc (.inl (by simp [hs]))

/-- Settles O44: the flip is too new to be accepted, and the level after it is the accepted one. -/
theorem shortGlitchIsIgnored : Obligations.ShortGlitchIsIgnored := by
  rintro cfg t1 t2 e e1 e2 - hs hraw hp hshort rfl rfl
  have hflip : evalButton cfg t1 true e = { e.present 1#2 t1 with event := Event.idle } :=
    evalButton_of_released hs hp (not_accepts_of_new (Nat.zero_lt_of_lt hshort) (by simp [levelCode, hraw]) t1)
  rw [hflip, evalButton_of_released (by simpa using hs) (by simpa using hp)
    (not_accepts_of_stable (by simp [levelCode, hs]) _ _)]
  simp [hs, hp]

section Hold

variable {cfg : Config} {now : Word} {e : Entry}

/-- The accepted level presented again to a pressed button: the hold begins at the threshold (R240). -/
theorem evalButton_entersHold (hs : e.stableState = 1#2) (hraw : e.rawState = 1#2) (hp : e.pending = false)
    (hk : e.event.kind ≠ .held) (hlong : cfg.tHold ≤ elapsed now e.pressTime) :
    evalButton cfg now true e = e.enterHold now := by
  rw [evalButton, Entry.present_of_eq (show levelCode true = e.rawState from hraw.symm)]
  exact classify_of_threshold (not_windowOver hp) (not_accepts_of_stable (hraw.trans hs.symm) _ _) hs (by simpa using hk)
    hlong

/-- The accepted level presented again to a held button: the hold continues (R239). -/
theorem evalButton_keepsHold (hs : e.stableState = 1#2) (hraw : e.rawState = 1#2) (hp : e.pending = false)
    (hk : e.event.kind = .held) : evalButton cfg now true e = e.keepHold now := by
  rw [evalButton, Entry.present_of_eq (show levelCode true = e.rawState from hraw.symm)]
  exact classify_of_held (not_windowOver hp) (not_accepts_of_stable (hraw.trans hs.symm) _ _) hs (decide_eq_true hk)

end Hold

/-- Settles O45: the first evaluation enters the hold, the second continues it. -/
theorem heldIsEnteredOnce : Obligations.HeldIsEnteredOnce := by
  rintro cfg t1 t2 e e1 e2 hok hs hraw hk hlong rfl rfl
  have hp := pending_eq_false_of_pressed hok hs
  rw [evalButton_entersHold hs hraw hp hk hlong,
    evalButton_keepsHold (e := e.enterHold t1) hs hraw hp (by simp [heldEvent])]
  exact ⟨rfl, rfl, rfl, rfl, rfl, rfl⟩

end Sys2Proof.Machine
end

section
/-! PROOF. The Link Sequencer and its consumers (45_link_sequencer.md): W_LIVE (R264), the three reads (R270 to R272), the
record of an identifier that is not enabled (R271), and what consumers and the CRC operations leave alone (R273, R296). -/

namespace Sys2Proof.Machine

/-! ### The operations on a link that exists -/

section OnLink

variable {s : State} {l : Byte} {c : LinkCfg} {k : Link}

theorem exec_wLive (hl : s.HasLink l c k) : exec (.wLive l) s =
    .next (s.checkLive l c (livenessLost c s.now k) { k with waitStart := s.now }) :=
  onLink_run (linkIs_iff.2 ⟨c, hl.1, rfl⟩) hl

theorem exec_readOnline (hl : s.HasLink l c k) : exec (.readOnline l) s = .next (s.respond .ok (.bit k.online)) :=
  onLink_run (linkIs_iff.2 ⟨c, hl.1, rfl⟩) hl

theorem exec_readCtrl (hl : s.HasLink l c k) (hc : c.kind ≠ .stream) :
    exec (.readCtrl l) s = .next (s.respond .ok (.ctrl k.ctrl)) :=
  onLink_run (linkIs_iff.2 ⟨c, hl.1, isRadio_of_ne_stream hc⟩) hl

/-- READ_REC of a record that exists reads its `REC_SIZE` bytes. -/
theorem exec_readRec (hl : s.HasLink l c k) (hc : c.kind = .stream) {id : Half} {size : Nat}
    (hsize : recordSize s.cfg id = some size) :
    exec (.readRec l id) s = .next (s.respond .ok (.bytes (k.records.readAt (recordKey id) 0 size))) := by
  have hlegal : legal s.cfg (.readRec l id) = true :=
    Bool.and_eq_true_iff.2 ⟨linkIs_iff.2 ⟨c, hl.1, beq_iff_eq.2 hc⟩, by rw [hsize]; rfl⟩
  refine (onLink_run hlegal hl : execReadRec l id s = _).trans ?_
  rw [Link.record, hsize]
  rfl

end OnLink

/-- Settles O47, by the two outcomes of the liveness test. -/
theorem wLiveChecksThenRestartsTheWait : Obligations.WLiveChecksThenRestartsTheWait := by
  intro s l c k hl
  refine ⟨fun hlive => ?_, fun hlost => ⟨_, ?_, clearPrio_bit_iff s.prioMask c.prio⟩⟩
  · rw [exec_wLive hl, State.checkLive, if_neg (mt livenessLost_iff.1 (Nat.not_lt.2 hlive))]
    rfl
  · rw [exec_wLive hl, State.checkLive, if_pos (livenessLost_iff.2 hlost)]
    rfl

/-- Settles O48: each read answers from the link as it stands. -/
theorem consumerReadsAreSnapshots : Obligations.ConsumerReadsAreSnapshots := by
  refine fun s l c k hl => ⟨exec_readOnline hl, exec_readCtrl hl, fun hc id size hsize => ?_⟩
  refine ⟨_, exec_readRec hl hc hsize, Mem.readAt_length .., fun n hn => ?_⟩
  rw [List.getElem?_eq_getElem (by rwa [Mem.readAt_length]), Mem.readAt_getElem, Nat.zero_add]

/-! ### Records that no dispatch writes (R271, R35) -/

/-- A space reads as unlisted wherever it may list nothing. -/
theorem Mem.Within.read_of_not {d : Nat → Prop} {m : Mem} (h : m.Within d) {a : Nat} (ha : ¬ d a) :
    m.read a = Mem.unlisted := by
  obtain ⟨-, hd⟩ := h
  induction m with
  | nil => rfl
  | cons x m ih =>
    rw [Mem.read_cons, if_neg fun hxa : x.1 = a => ha (hxa ▸ hd x List.mem_cons_self)]
    exact ih fun y hy => hd y (List.mem_cons_of_mem _ hy)

/-- Reading where every byte is `v`. -/
theorem Mem.readAt_eq_replicate {m : Mem} {key : Nat → Nat} {a n : Nat} {v : Byte}
    (h : ∀ i, i < n → m.read (key (a + i)) = v) : m.readAt key a n = List.replicate n v := by
  refine List.ext_getElem (by simp) fun i hi _ => ?_
  rw [Mem.readAt_getElem, List.getElem_replicate, h i (by simpa using hi)]

/-- The identifier in the key of a record's byte. -/
theorem ofNat_recordKey (id : Half) (i : Nat) : BitVec.ofNat 16 (recordKey id i) = id := by
  apply BitVec.eq_of_toNat_eq
  simp only [recordKey, BitVec.toNat_ofNat]
  omega

/-- The record of an identifier that is not enabled has no address that a space may list. -/
theorem not_recordAddress_of_not_enabled {cfg : Config} {id : Half} (h : enabledSize cfg id = none) (i : Nat) :
    ¬ recordAddress cfg (recordKey id i) := by
  rw [recordAddress, ofNat_recordKey, h]
  exact Nat.not_lt_zero _

/-- Settles O49: the store of a sound link lists no byte of the record, and an unlisted byte reads 0. -/
theorem unsubscribedRecordReadsZero : Obligations.UnsubscribedRecordReadsZero := by
  intro s l c k id size hs hl hc hsize hnone
  obtain ⟨-, -, hrecords⟩ := (State.spacesOk_iff.1 hs).hasLink hl
  rw [exec_readRec hl hc hsize,
    Mem.readAt_eq_replicate fun i _ => hrecords.read_of_not (not_recordAddress_of_not_enabled hnone (0 + i))]
  rfl

/-! ### Consumers and CRC operations (R273, R296) -/

/-- An operation on a link whose body only answers. -/
theorem onLink_answers {i : Instr} {l : Byte} {s t : State} {body : LinkCfg → Link → Out}
    (hb : ∀ c k, ∃ st r, body c k = .next (s.respond st r)) (h : onLink i l s body = .next t) : Answers s t := by
  rcases onLink_cases i l s body with he | ⟨c, k, -, -, he⟩
  · cases h.symm.trans he
    exact ⟨_, rfl⟩
  · obtain ⟨st, r, hbody⟩ := hb c k
    cases h.symm.trans (he.trans hbody)
    exact ⟨_, rfl⟩

/-- EVERYTHING AN OPERATION OF A CONSUMER, OR A CRC OPERATION, CAN DO. -/
theorem exec_answers {i : Instr} {s t : State} (hi : issuer i = .consumer ∨ issuer i = .any) (h : exec i s = .next t) :
    Answers s t := by
  cases i with
  | activeSrc | crc8Verify _ | crc16Verify _ | crc8Append _ | crc16Append _ => cases h; exact ⟨_, rfl⟩
  | readCtrl _ | readRec _ _ | readOnline _ => exact onLink_answers (fun c k => ⟨_, _, rfl⟩) h
  | _ => rcases hi with hi | hi <;> cases hi

/-- Only a worker's operation moves a worker on (R260). -/
theorem phaseAfter_of_not_worker {i : Instr} (hi : issuer i ≠ .worker) (st : Status) : phaseAfter i st = none := by
  refine Option.eq_none_iff_forall_not_mem.2 fun ⟨l, p⟩ hp => ?_
  rcases phaseAfter_some hp with ⟨rfl, -⟩ | ⟨rfl, -⟩ | ⟨rfl, -⟩ <;> exact hi rfl

/-- A step by which an agent issues such an operation samples the clock and answers, or does nothing. -/
theorem agentStep_answers {a : AgentOp} {now : Word} {s t : State} (ha : a.context = .consumer ∨ a.context = .any)
    (h : agentStep a now s = .next t) : t = s ∨ Answers { s with now := now } t := by
  rw [← issuer_instr s.cfg a] at ha
  unfold agentStep at h
  split at h
  · obtain ⟨u, hu, hk⟩ := exec_of_keepPlace h
    have hworker : issuer (a.instr s.cfg) ≠ .worker := fun hw => by simp [hw] at ha
    cases keepPlace_none (phaseAfter_of_not_worker hworker _) hk
    exact .inr (exec_answers ha hu)
  · cases h
    exact .inl rfl

/-- Settles O50, from everything that such an operation and such a step can do. -/
theorem consumersAndCrcWriteNothing : Obligations.ConsumersAndCrcWriteNothing := by
  refine ⟨fun i s t hi h => ?_, fun a now s t ha h => ?_⟩
  · obtain ⟨r, rfl⟩ := exec_answers hi h
    rfl
  · have hcontext : a.context = .consumer ∨ a.context = .any := by
      rcases ha with ⟨op, rfl⟩ | ⟨who, op, rfl⟩
      · exact .inl rfl
      · exact .inr rfl
    rcases agentStep_answers hcontext h with rfl | ⟨r, rfl⟩ <;> rfl

end Sys2Proof.Machine
end

section
/-! PROOF. What the worker of a link can write (60_exceptions.md R296, R299): no receive buffer, no link but its own, no bit
of the mask but its own. -/

namespace Sys2Proof.Machine

/-! ### Only RX writes a receive buffer (R29, R296) -/

theorem decodeUnit_rxbuf {cfg : Config} {now : Word} {kind : Kind} {unit : List Byte} {k : Link} {v : Verdict}
    (h : decodeUnit cfg now kind unit k = some v) : v.link.rxbuf = k.rxbuf := by
  cases kind with
  | fixedA =>
    cases h
    rcases validateA_cases cfg now unit k with ⟨-, hv⟩ | ⟨-, -, hv⟩ | ⟨-, -, hv⟩ <;> rw [hv] <;> rfl
  | fixedB =>
    cases h
    rcases validateB_cases cfg now unit k with ⟨-, hv⟩ | ⟨-, -, hv⟩ | ⟨-, -, -, hv⟩ | ⟨-, -, -, hv⟩ <;> rw [hv] <;> rfl
  | stream =>
    obtain ⟨-, -, -, -, -, hbuf, -⟩ := sync_kept h
    exact hbuf

/-- The receive buffers of all links. -/
def State.buffers (s : State) : List Mem := s.links.map Link.rxbuf

theorem buffers_at_index {s t : State} (h : t.buffers = s.buffers) {n : Nat} {k k' : Link} (hk : s.links[n]? = some k)
    (hk' : t.links[n]? = some k') : k'.rxbuf = k.rxbuf := by
  have hn := congrArg (·[n]?) h
  simpa only [State.buffers, List.getElem?_map, hk, hk', Option.map_some, Option.some.injEq] using hn

section Buffers

variable {s t : State} {l : Byte} {c : LinkCfg} {k k' : Link}

/-- Replacing a link by one with the same receive buffer. -/
theorem State.HasLink.buffers_of_set (hl : s.HasLink l c k) (hlinks : t.links = s.links.set l.toNat k')
    (hbuf : k'.rxbuf = k.rxbuf) : t.buffers = s.buffers := by
  obtain ⟨hlt, rfl⟩ := List.getElem?_eq_some_iff.1 hl.2
  rw [State.buffers, hlinks, List.map_set, hbuf, ← List.getElem_map Link.rxbuf (h := by simpa using hlt),
    List.set_getElem_self]
  rfl

theorem checkLive_buffers (hl : s.HasLink l c k) (lost : Bool) (hbuf : k'.rxbuf = k.rxbuf) :
    (s.checkLive l c lost k').buffers = s.buffers := by
  rw [State.checkLive_eq]
  exact hl.buffers_of_set rfl (by split <;> exact hbuf)

/-- Committing what a decoder answers to a unit. -/
theorem settleSync_buffers (hl : s.HasLink l c k) {cfg : Config} {now : Word} {kind : Kind} {unit : List Byte}
    (hbuf : k'.rxbuf = k.rxbuf) (h : s.settleSync l c (decodeUnit cfg now kind unit k') = .next t) :
    t.buffers = s.buffers := by
  cases hv : decodeUnit cfg now kind unit k' with
  | none => rw [hv] at h; cases h
  | some v =>
    rw [hv] at h
    cases h
    rw [State.settle_eq]
    exact hl.buffers_of_set rfl (by split <;> exact (decodeUnit_rxbuf hv).trans hbuf)

theorem onLink_buffers {i : Instr} {body : LinkCfg → Link → Out}
    (hb : ∀ c k, s.HasLink l c k → body c k = .next t → t.buffers = s.buffers) (h : onLink i l s body = .next t) :
    t.buffers = s.buffers := by
  rcases onLink_cases i l s body with he | ⟨c, k, -, hl, he⟩ <;> rw [he] at h
  · cases h
    rfl
  · exact hb c k hl h

/-- No operation of a worker writes a receive buffer. -/
theorem exec_buffers {i : Instr} (hi : issuer i = .worker) (h : exec i s = .next t) : t.buffers = s.buffers := by
  cases i with
  | popTimeout l => exact onLink_buffers (fun c k hl hb => by split at hb <;> cases hb <;> rfl) h
  | pop l | evalSw l e v | evalBtn l e v =>
    refine onLink_buffers (fun c k hl hb => ?_) h
    split at hb <;> cases hb
    · exact hl.buffers_of_set rfl rfl
    · rfl
  | markAlive l | markTimeout l =>
    exact onLink_buffers (fun c k hl hb => by cases hb; exact hl.buffers_of_set rfl rfl) h
  | liveCheck l | wLive l =>
    exact onLink_buffers (fun c k hl hb => by cases hb; exact checkLive_buffers hl _ rfl) h
  | validateA l frame => exact onLink_buffers (fun c k hl => settleSync_buffers (kind := .fixedA) hl rfl) h
  | validateB l frame => exact onLink_buffers (fun c k hl => settleSync_buffers (kind := .fixedB) hl rfl) h
  | syncByte l b =>
    exact onLink_buffers (fun c k hl => settleSync_buffers (kind := .stream) (now := s.now) (unit := [b]) hl rfl) h
  | wRecv l =>
    refine onLink_buffers (i := .wRecv l) (fun c k hl _ => ?_) h
    have hrecv := (exec_wRecv hl).symm.trans h
    split at hrecv
    · exact settleSync_buffers (k' := k.dequeue s.cfg c) hl rfl hrecv
    · cases hrecv
      rfl
  | _ => cases hi

end Buffers

/-! ### The worker's own link (R296) -/

/-- From link `k` to link `k'` the queue loses bytes at its head, or none, and the receive buffer stays. -/
def Link.LosesHead (k k' : Link) : Prop := k'.rxbuf = k.rxbuf ∧ ∃ m, k'.q = k.q.drop m

/-- A worker issues neither PUSH nor RX, and nothing else appends. -/
theorem QueueMove.drop_of_worker {i : Instr} {l : Byte} {q q' : List Byte} (hi : issuer i = .worker)
    (h : QueueMove i l q q') : ∃ m, q' = q.drop m := by
  obtain ⟨m, bytes, rfl, -, hbytes⟩ := h
  have hnil : bytes = [] := by
    by_contra hne
    rcases hbytes hne with rfl | rfl <;> cases hi
  exact ⟨m, by rw [hnil, List.append_nil]⟩

theorem exec_losesHead {i : Instr} {s t : State} (hi : issuer i = .worker) (h : exec i s = .next t) {n : Nat}
    {k k' : Link} (hk : s.links[n]? = some k) (hk' : t.links[n]? = some k') : k.LosesHead k' := by
  refine ⟨buffers_at_index (exec_buffers hi h) hk hk', ?_⟩
  obtain ⟨-, hq | ⟨l, -, hq⟩⟩ := (exec_keepsPlaces (by rintro rfl; cases hi) h).at_index hk hk'
  · exact ⟨0, hq⟩
  · exact hq.drop_of_worker hi

/-- The worker's place is neither queue nor buffer (R260). -/
theorem withPhase_losesHead {t : State} {l : Byte} {p : Phase} {n : Nat} {k k' : Link}
    (h : ∀ x, t.links[n]? = some x → k.LosesHead x) (hk' : (t.withPhase l p).links[n]? = some k') : k.LosesHead k' := by
  simp only [State.withPhase_links, List.getElem?_modify, Option.map_eq_map, Option.map_eq_some_iff] at hk'
  obtain ⟨x, hx, rfl⟩ := hk'
  split <;> exact h x hx

/-! ### Other links and other bits (R296, R299) -/

/-- From `s` to `t` no link but `l` changes, no bit of the mask but that of `l`, and neither configuration nor requests. -/
structure WritesOnly (l : Byte) (s t : State) : Prop where
  cfg : t.cfg = s.cfg
  requests : t.requests = s.requests
  length : t.links.length = s.links.length
  link : ∀ n : Nat, n ≠ l.toNat → t.links[n]? = s.links[n]?
  bit : ∀ q : Prio, priorityOfLink s.cfg l ≠ some q → t.prioMask.getLsbD q.val = s.prioMask.getLsbD q.val

theorem WritesOnly.refl (l : Byte) (s : State) : WritesOnly l s s := ⟨rfl, rfl, rfl, fun _ _ => rfl, fun _ _ => rfl⟩

theorem Answers.writesOnly {s t : State} (h : Answers s t) (l : Byte) : WritesOnly l s t := by
  obtain ⟨r, rfl⟩ := h
  exact ⟨rfl, rfl, rfl, fun _ _ => rfl, fun _ _ => rfl⟩

theorem Moves.writesOnly {s t : State} {l : Byte} (h : Moves s l t) : WritesOnly l s t := by
  obtain ⟨c, k, k', m, r, d, hl, -, hmask, rfl⟩ := h
  refine ⟨rfl, rfl, List.length_set, fun n hn => List.getElem?_set_ne (Ne.symm hn), fun q hq => hmask.bit_of_ne ?_⟩
  rwa [priorityOfLink, hl.1] at hq

theorem WritesOnly.withPhase {s t : State} {l : Byte} (h : WritesOnly l s t) (p : Phase) :
    WritesOnly l s (t.withPhase l p) := by
  obtain ⟨hcfg, hreq, hlen, hlink, hbit⟩ := h
  refine ⟨hcfg, hreq, (List.length_modify ..).trans hlen, fun n hn => ?_, hbit⟩
  simpa [List.getElem?_modify, Ne.symm hn] using hlink n hn

/-- An operation on a link writes that link and its bit, and none other. -/
theorem exec_writesOnly {i : Instr} {l : Byte} {s t : State} (hlink : i.link? = some l) (h : exec i s = .next t) :
    WritesOnly l s t := by
  rcases exec_cases h with ⟨rfl, -⟩ | ha | ⟨m, hm, hmove⟩
  · cases hlink
  · exact ha.writesOnly l
  · cases hlink.symm.trans hm
    exact hmove.writesOnly

/-- EVERYTHING A STEP OF `W(l)` CAN WRITE: link `l` and its bit, and of the link's queue and receive buffer only the
queue's head. -/
theorem agentStep_worker {l : Byte} {op : WorkerOp} {now : Word} {s u : State}
    (h : agentStep (.worker l op) now s = .next u) :
    WritesOnly l s u ∧ ∀ (n : Nat) (k k' : Link), s.links[n]? = some k → u.links[n]? = some k' → k.LosesHead k' := by
  have hi : issuer (op.instr l) = .worker := issuer_instr s.cfg (.worker l op)
  rcases agentStep_cases h with ⟨-, rfl⟩ | ⟨-, t, ht, hu⟩
  · refine ⟨.refl l u, fun n k k' hk hk' => ?_⟩
    cases hk.symm.trans hk'
    exact ⟨rfl, 0, rfl⟩
  · have hwrites : WritesOnly l s t := by
      obtain ⟨hcfg, hreq, hlen, hlink, hbit⟩ := exec_writesOnly (worker_link l op) ht
      exact ⟨hcfg, hreq, hlen, hlink, hbit⟩
    rcases hu with rfl | ⟨m, p, hm, rfl⟩
    · exact ⟨hwrites, fun n k k' hk hk' => exec_losesHead hi ht hk hk'⟩
    · cases (worker_link l op).symm.trans hm
      exact ⟨hwrites.withPhase p, fun n k k' hk => withPhase_losesHead fun x hx => exec_losesHead hi ht hk hx⟩

/-- Settles O52, from everything that an operation on a link and a step of its worker can write. -/
theorem workerTouchesOnlyItsOwnLinkAndBit : Obligations.WorkerTouchesOnlyItsOwnLinkAndBit := by
  refine ⟨fun i s t l c _ hlink hc h => ?_, fun l op now s t h => ?_⟩
  · obtain ⟨hcfg, -, hlen, hother, hbit⟩ := exec_writesOnly hlink h
    exact ⟨hcfg, hlen, hother, fun q hq => hbit q (by rwa [priorityOfLink, hc])⟩
  · obtain ⟨⟨hcfg, hreq, hlen, hother, hbit⟩, hown⟩ := agentStep_worker h
    exact ⟨hcfg, hreq, hlen, hother, hown l.toNat, hbit⟩

end Sys2Proof.Machine
end

section
/-! PROOF. RESET (70_reset_and_hazards.md R310): every register of 10_state.md R44 at its reset value. -/

namespace Sys2Proof.Machine

/-- R42: SW_RESET_CODE is 0, so a switch entry at reset is no other than a button entry at reset. -/
theorem Entry.idleSwitch_eq_idle : Entry.idleSwitch = Entry.idle := rfl

theorem Ctrl.reset_entry_eq_idle {cfg : Config} {kind : Kind} {e : Entry}
    (he : e ∈ (Ctrl.reset cfg kind).sw ++ (Ctrl.reset cfg kind).btn) : e = Entry.idle := by
  rcases List.mem_append.1 he with hsw | hbtn
  · exact (List.eq_of_mem_replicate hsw).trans Entry.idleSwitch_eq_idle
  · exact List.eq_of_mem_replicate hbtn

theorem exec_reset (s : State) : exec .reset s =
    .next (State.resetWith s.cfgIn s.cfgIn s.requests s.now { status := .ok, result := .none } s.draws) := rfl

/-- Settles O9, from what each link holds at reset: the scalar registers as `Link.reset` writes them, the numbers of
entries of R37, and the one idle entry of R42 in every place. -/
theorem resetTakesEveryResetValue : Obligations.ResetTakesEveryResetValue := by
  intro s
  refine ⟨_, exec_reset s, rfl, rfl, rfl, rfl, rfl, rfl, List.length_map .., State.every_resetWith fun c _ => ?_⟩
  obtain ⟨hsw, hbtn⟩ := Ctrl.sized_reset s.cfgIn c.kind
  refine ⟨rfl, rfl, rfl, rfl, rfl, rfl, rfl, rfl, rfl, Mem.read_nil, rfl, rfl, rfl, rfl, rfl, rfl, rfl, rfl, rfl, rfl,
    rfl, ?switches, ?buttons, fun e he => ?entries⟩
  case switches => exact hsw.trans (by cases c.kind <;> rfl)
  case buttons => exact hbtn.trans (by cases c.kind <;> rfl)
  case entries =>
    obtain rfl := Ctrl.reset_entry_eq_idle he
    exact ⟨rfl, rfl, rfl, rfl, rfl, rfl, rfl, rfl, rfl, rfl⟩

end Sys2Proof.Machine
end
